-- ==== Sys2Proof/Word.lean ====
section
/-! DEFINITION. The bit-vector types of the OSN-4120: bytes on the link, image words, the generation. -/

namespace Sys2Proof

/-- One byte of an OLP frame (R60, "its eight data bits form one byte"). -/
abbrev Byte := BitVec 8

/-- One word of the image: 16 bits, bit 0 the least significant (00_scope.md, CONVENTIONS). -/
abbrev Word := BitVec 16

/-- The generation counter: 32 bits, unsigned, wrapping (R21). -/
abbrev Gen := BitVec 32

end Sys2Proof
end

