-- ==== Sys2Proof/Config.lean ====
section
/-! DEFINITION. What the part fixes once for all (identity and limits) and the
one value the manual leaves open. -/

namespace Sys2Proof.Config

/-- DIA word 0, the device code (R155). -/
def deviceCode : Word := 0x4120

/-- DIA word 1, the revision (R155). -/
def revision : Word := 0x0103

/-- The first byte of every frame (R62). -/
def lead : Byte := 0xC3

/-- The largest LEN the receiver admits (R64). -/
def maxLen : Nat := 130

/-- The Hold Table's limit of entries (R24). -/
def maxHolds : Nat := 16

/-- The limit of Hold Table entries of one port (R24). -/
def maxHoldsPerPort : Nat := 8

/-- The largest lease, in units of 0.1 s (R29). -/
def maxLease : Nat := 600

/-- The length of a port's notice queue (R118). -/
def maxNotices : Nat := 8

/-- The length of a port's session frame queue (R71). -/
def maxFrames : Nat := 4

/-- Words 0 to 54 of a bank govern the part (R43). -/
def governing : Nat := 55

/-- FREE VALUE. When a SWAP turns a port's notice-enable bit from 0 to 1, the SWAP's own report and the
port's decision to send its queue head come together at the Notice Unit, and R129 allows either order:
true means the decision is taken first. Applied to State's count of choices, which no other SWAP has met, and
to the port, so nothing constrains it (log entry 9). -/
opaque sendBeforeSwapReport : Nat → Nat → Bool

end Sys2Proof.Config
end

