-- ==== Sys2Proof/Syntax.lean ====
section
/-! DEFINITION. The commands of the part: one constructor for each row of the table of operations and
events. -/

namespace Sys2Proof

/-- A link port, LP0 to LP3. -/
abbrev Port := Fin 4

/-- A field input line, IN0 to IN31. -/
abbrev Line := Fin 32

/-- An output group, G0 to G7. -/
abbrev Group := Fin 8

/-- The steps that reach the part. The rows READ to BAD_OPERATION and DAT to NTA are the arrival of one
VALID frame at its port, the event at which its low CRC byte is taken (R67); CHARACTER_RECEIVED brings the
same event about character by character (log entry 2). -/
inductive Instr where
  /-- RESET_N_ASSERT: RESET_N goes low. -/
  | resetNAssert
  /-- RESET_N_RELEASE: RESET_N goes high, with the levels of the straps RATE2..0 and PAR at that event. -/
  | resetNRelease (rate : BitVec 3) (par : Bool)
  /-- CHARACTER_RECEIVED: a character completes on a port's receive line: its eight data bits, the sampled
  parity bit (of no meaning unless parity is strapped even) and the level sampled at the stop bit. -/
  | characterReceived (p : Port) (data : Byte) (parityBit stopBit : Bool)
  /-- FRAMING_ERROR: the receive line returns to mark after a character with a framing error. -/
  | framingError (p : Port)
  /-- GAP_LIMIT_EXPIRY: the pause within a frame has reached 4 character times. -/
  | gapLimitExpiry (p : Port)
  /-- BREAK_DETECTED: the receive line has been at space for 2 character times. -/
  | breakDetected (p : Port)
  /-- BREAK_END: the receive line returns to mark after a break. -/
  | breakEnd (p : Port)
  /-- FRAME_SENT: the last character of the frame in progress has been sent. -/
  | frameSent (p : Port)
  /-- READ request. -/
  | read (p : Port) (tag area flags : Byte) (first count : Word)
  /-- WRITE request. -/
  | write (p : Port) (tag area flags : Byte) (first count : Word)
  /-- MWRITE request. -/
  | mwrite (p : Port) (tag area flags : Byte) (first count : Word)
  /-- HOLD request; the lease is in units of 0.1 s. -/
  | hold (p : Port) (tag area : Byte) (first count lease : Word)
  /-- RELEASE request. -/
  | release (p : Port) (tag holdId : Byte)
  /-- RENEW request. -/
  | renew (p : Port) (tag holdId : Byte) (lease : Word)
  /-- SUBSCRIBE request. -/
  | subscribe (p : Port) (tag area flags : Byte) (first count : Word)
  /-- UNSUBSCRIBE request. -/
  | unsubscribe (p : Port) (tag subId : Byte)
  /-- SWAP request. -/
  | swap (p : Port) (tag : Byte)
  /-- COPY request. -/
  | copy (p : Port) (tag : Byte)
  /-- PING request. -/
  | ping (p : Port) (tag : Byte)
  /-- BAD_OPERATION: a REQ whose operation code is not 1 to 11, or whose length does not fit it; `fields`
  are the payload bytes after the operation code. -/
  | badOperation (p : Port) (tag op : Byte) (fields : List Byte)
  /-- DAT frame, with its whole payload. -/
  | dat (p : Port) (payload : List Byte)
  /-- ACK frame, with its whole payload. -/
  | ack (p : Port) (payload : List Byte)
  /-- NAK frame, with its whole payload. -/
  | nak (p : Port) (payload : List Byte)
  /-- ABT frame, with its whole payload. -/
  | abt (p : Port) (payload : List Byte)
  /-- NTA frame, with its whole payload. -/
  | nta (p : Port) (payload : List Byte)
  /-- T_SEG_EXPIRY: the port's segment wait runs out. -/
  | tSegExpiry (p : Port)
  /-- T_ACK_EXPIRY: the port's acknowledge wait runs out. -/
  | tAckExpiry (p : Port)
  /-- T_NTC_EXPIRY: the port's notice acknowledge wait runs out. -/
  | tNtcExpiry (p : Port)
  /-- LEASE_EXPIRY: the lease of the hold with this id runs out. -/
  | leaseExpiry (holdId : Byte)
  /-- REFRESH_TIMER_EXPIRY: a group's refresh timer runs out. -/
  | refreshTimerExpiry (g : Group)
  /-- INPUT_TRANSITION: a line level changes to `level`, true for high. -/
  | inputTransition (n : Line) (level : Bool)
  /-- MEASUREMENT_EXPIRY: a line's running measurement reaches its filter time. -/
  | measurementExpiry (n : Line)
  /-- COMMIT: the arbiter takes the port's commit claim. -/
  | commit (p : Port)
  /-- SNAPSHOT: the arbiter takes the port's snapshot claim. -/
  | snapshot (p : Port)
  /-- INPUT_UPDATE: the arbiter takes the line's input update claim. -/
  | inputUpdate (n : Line)
  /-- SWAP_CLAIM: the arbiter takes the port's SWAP claim. -/
  | swapClaim (p : Port)
  /-- COPY_CLAIM: the arbiter takes the port's COPY claim. -/
  | copyClaim (p : Port)
  /-- START_BIT: the receive line goes from mark to space at the start of a character. -/
  | startBit (p : Port)
deriving DecidableEq, Repr

end Sys2Proof
end

