-- ==== Sys2Proof/Decode.lean ====
section
/-! DEFINITION. The command a table word spells. The part is a block, and opcode_table.json gives none of
its rows bits ("fields": [] and no "fixed" in every row), so no word spells a command. -/

namespace Sys2Proof

/-- The command that a word spells by the table's bits: none, since the table gives no row any bits. -/
def decodeTableWord (_nbits _w : Nat) : Option Instr := none

end Sys2Proof
end

