-- ==== Sys2Proof/Machine/State.lean ====
section
/-! DEFINITION. Everything the manual gives the part to remember, as plain data, and its value right after
the release of RESET_N. INVENTORY.md, under State, lists each field with its rule. -/

namespace Sys2Proof.Machine

/-- What stops the part: nothing. The manual names no event that does, so the type has no constructor and
no command faults. -/
inductive Fault
deriving DecidableEq, Repr

/-- Why a command is refused. -/
inductive Refusal where
  /-- Raised by exec's arm of a command that has no meaning yet; safe, since it stops. No arm is left so. -/
  | notModelled (mnemonic : String)
deriving DecidableEq, Repr

/-- The five areas of the shared image (R1). -/
inductive Area where
  | inp | out | wrd | prm | dia
deriving DecidableEq, Repr

/-- The two parameter banks (R3). -/
inductive Bank where
  | bank0 | bank1
deriving DecidableEq, Repr

/-- The stored parts of the image: the areas, PRM once for each bank. DIA is not stored (R155). -/
inductive Region where
  | inp | out | wrd | prm (b : Bank)
deriving DecidableEq, Repr

/-- Words by index: indices rise, and an index not listed holds its reset word. -/
abbrev Memory := List (Nat × Word)

/-- The Image Store's areas, live bank indicator and generation (R1, R3, R21). -/
structure Image where
  inp : Memory
  out : Memory
  wrd : Memory
  bank0 : Memory
  bank1 : Memory
  live : Bank
  gen : Gen
deriving DecidableEq, Repr

/-- The two operations whose data is committed (R8). -/
inductive WriteOp where
  | write | mwrite
deriving DecidableEq, Repr

/-- A claim on the commit arbiter with what it carries (R7, R8, R18, R20). The region of a commit is OUT,
WRD, or PRM in the target bank recorded at acceptance. -/
inductive Claim where
  | commit (p : Port) (op : WriteOp) (region : Region) (first count : Nat)
  | snapshot (p : Port) (area : Area) (edit : Bool) (first count : Nat)
  | inputUpdate (n : Line) (level : Bool)
  | swap (p : Port)
  | copy (p : Port)
deriving DecidableEq, Repr

/-- An entry of the Hold Table (R23); the lease is what remains of it, in ms. -/
structure Hold where
  id : Byte
  owner : Port
  area : Area
  first : Nat
  last : Nat
  lease : Nat
deriving DecidableEq, Repr

/-- Frame assembly states (R62), with the part of the frame taken so far. -/
inductive Assembly where
  | hunt
  | kind
  | length (kind : Byte)
  | payload (kind len : Byte) (got : List Byte) (due : Nat)
  | check (kind len : Byte) (got : List Byte) (high : Option Byte)
  | brk
deriving DecidableEq, Repr

/-- Levels of a link line (R60). -/
inductive LineLevel where
  | mark | space
deriving DecidableEq, Repr

/-- A port's receiver (R60 to R68). -/
structure Receiver where
  assembly : Assembly
  gapTiming : Bool
  inCharacter : Bool
  awaitMark : Bool
  line : LineLevel
deriving DecidableEq, Repr

/-- The frame kinds the part sends (R73). -/
inductive PartKind where
  | rsp | dat | ack | nak | fin | ntc
deriving DecidableEq, Repr

/-- What a frame's producer does when it is told that the frame is sent (R70): nothing; start T_ack for
the segment with this seq (R97); close the transfer (R103); start T_ntc (R123). -/
inductive Origin where
  | reply
  | segment (seq : Nat)
  | closing
  | notice
deriving DecidableEq, Repr

/-- A frame the part forms, less the bytes the transmitter adds. -/
structure TxFrame where
  kind : PartKind
  payload : List Byte
  origin : Origin
deriving DecidableEq, Repr

/-- The frame in progress and its bytes on the line, from LEAD to the low CRC byte (R70). -/
structure Sending where
  frame : TxFrame
  wire : List Byte
deriving DecidableEq, Repr

/-- A port's transmitter (R70, R71). -/
structure Transmitter where
  sending : Option Sending
  queue : List TxFrame
  slot : Option TxFrame
deriving DecidableEq, Repr

/-- Session states (R77). -/
inductive SessionState where
  | idle | notifying | receiving | sending | committing
deriving DecidableEq, Repr

/-- The operations that open a transfer (R86). -/
inductive TransferOp where
  | read | write | mwrite
deriving DecidableEq, Repr

/-- The session record of an open transfer (R77). `seq` is the expected seq in RECEIVING and the current
seq in SENDING; `wait` is the captured T_seg or T_ack in ms; `closing` is R78's condition. -/
structure Transfer where
  request : List Byte
  op : TransferOp
  area : Area
  edit : Bool
  first : Nat
  count : Nat
  seq : Nat
  retry : Nat
  retryLimit : Nat
  wait : Nat
  target : Option Bank
  snapGen : Option Gen
  closing : Bool
deriving DecidableEq, Repr

/-- A request with its final reply, as the last exchange record holds them (R104). -/
structure Exchange where
  request : List Byte
  replyKind : PartKind
  reply : List Byte
deriving DecidableEq, Repr

/-- A SWAP or COPY whose claim is not yet taken (R78, pending): its reply is owed to the request, or, after
a port reset, to nobody (R58). -/
inductive BankRequest where
  | owed (request : List Byte)
  | orphaned
deriving DecidableEq, Repr

/-- A subscription; its id is one more than its place in the table (R111). -/
structure Subscription where
  area : Area
  edit : Bool
  noself : Bool
  first : Nat
  last : Nat
deriving DecidableEq, Repr

/-- Notice kinds (R76). -/
inductive NoticeKind where
  | change | holdlost | fallback
deriving DecidableEq, Repr

/-- What an entry's first transmission fixes (R121). -/
structure SentInfo where
  seq : Byte
  lost : Byte
deriving DecidableEq, Repr

/-- An entry of a notice queue (R118); `sent` is its sent flag with the values fixed by it. -/
structure Notice where
  kind : NoticeKind
  refId : Byte
  area : Area
  first : Nat
  last : Nat
  gen : Gen
  cause : Byte
  sent : Option SentInfo
deriving DecidableEq, Repr

/-- A port's share of the Notice Unit and its notice delivery (R111, R118, R120, R121). -/
structure NoticeState where
  subs : Vector (Option Subscription) 4
  queue : List Notice
  retry : Nat
  paused : Bool
  tNtc : Option Nat
  seqCounter : Byte
  lost : Byte
deriving DecidableEq, Repr

/-- A port's five counters (R157). -/
structure Counters where
  crcDiscards : Word
  framingDiscards : Word
  gapDiscards : Word
  timeouts : Word
  retries : Word
deriving DecidableEq, Repr

/-- One link port: receiver, transmitter, session controller, Transfer Buffer, notices, counters. A timer
is none when stopped, or what is left of it in ms. -/
structure PortState where
  rx : Receiver
  tx : Transmitter
  session : SessionState
  transfer : Option Transfer
  bankRequest : Option BankRequest
  record : Option Exchange
  tSeg : Option Nat
  tAck : Option Nat
  buffer : List Word
  notice : NoticeState
  counters : Counters
deriving DecidableEq, Repr

/-- A running measurement: the candidate level and the held time in ms (R133). -/
structure Measurement where
  candidate : Bool
  held : Nat
deriving DecidableEq, Repr

/-- Update states of an input line (R133). -/
inductive UpdateState where
  | none | waiting | waitingHeld
deriving DecidableEq, Repr

/-- The filter of one input line (R132, R133). -/
structure LineFilter where
  level : Bool
  settled : Bool
  measuring : Option Measurement
  update : UpdateState
deriving DecidableEq, Repr

/-- Supervision states of an output group (R142). -/
inductive GroupMode where
  | unsupervised | armed | fallback
deriving DecidableEq, Repr

/-- The record of one output group (R142); the refresh timer is what is left of it in ms. -/
structure GroupState where
  mode : GroupMode
  owner : Word
  refresh : Word
  timer : Option Nat
deriving DecidableEq, Repr

/-- The whole part. `claims` holds the waiting claims in order of arrival, the claims of one event in one
list; `driven` holds the driven levels of OUT0 to OUT31, true for high; `pending` is the queue of commands
that wait; `choices`, the model's own, counts the choices the manual leaves open that have been met, so that
each is a free value of its own (log entry 9). -/
structure State where
  resetLow : Bool
  rateCode : BitVec 3
  parity : Bool
  image : Image
  claims : List (List Claim)
  holds : List Hold
  nextId : Byte
  ports : Vector PortState 4
  lines : Vector LineFilter 32
  groups : Vector GroupState 8
  driven : Vector Bool 32
  pending : List Instr
  choices : Nat
deriving DecidableEq, Repr

/-- The image at the release of RESET_N (R6): no word differs from its reset word. -/
def Image.reset : Image :=
  { inp := [], out := [], wrd := [], bank0 := [], bank1 := [], live := .bank0, gen := 0 }

/-- A receiver at the release of RESET_N (R72), its line at `line`. -/
def Receiver.reset (line : LineLevel) : Receiver :=
  { assembly := .hunt, gapTiming := false, inCharacter := false, awaitMark := false, line := line }

/-- A transmitter at the release of RESET_N (R72). -/
def Transmitter.reset : Transmitter := { sending := none, queue := [], slot := none }

/-- A port's notices at power-on (R131) and after its port reset (R130). -/
def NoticeState.reset : NoticeState :=
  { subs := Vector.replicate 4 none, queue := [], retry := 0, paused := false, tNtc := none,
    seqCounter := 0, lost := 0 }

/-- A port's counters at the release of RESET_N (R158). -/
def Counters.reset : Counters :=
  { crcDiscards := 0, framingDiscards := 0, gapDiscards := 0, timeouts := 0, retries := 0 }

/-- A port at the release of RESET_N (R72, R110, R131, R158), its receive line at `line`. -/
def PortState.reset (line : LineLevel) : PortState :=
  { rx := Receiver.reset line, tx := Transmitter.reset, session := .idle, transfer := none,
    bankRequest := none, record := none, tSeg := none, tAck := none, buffer := [],
    notice := NoticeState.reset, counters := Counters.reset }

/-- A line's filter at the release of RESET_N (R140): at level 1 a measurement starts at the release. -/
def LineFilter.reset (level : Bool) : LineFilter :=
  { level := level, settled := false,
    measuring := if level then some { candidate := true, held := 0 } else none,
    update := .none }

/-- A group at the release of RESET_N (R153): owner 15, refresh time 0, UNSUPERVISED. -/
def GroupState.reset : GroupState := { mode := .unsupervised, owner := 15, refresh := 0, timer := none }

/-- The part right after the release of RESET_N, with the strap pins and the external lines at the levels
of log entry 6: straps 0, receive lines at mark, input lines low. -/
def State.reset : State :=
  { resetLow := false, rateCode := 0, parity := false, image := Image.reset, claims := [], holds := [],
    nextId := 1, ports := Vector.replicate 4 (PortState.reset .mark),
    lines := Vector.replicate 32 (LineFilter.reset false),
    groups := Vector.replicate 8 GroupState.reset, driven := Vector.replicate 32 false, pending := [],
    choices := 0 }

end Sys2Proof.Machine
end

