-- ==== Sys2Proof/Machine/Ops.lean ====
section
/-! DEFINITION. The named operations over State: words of the image, ports, lines, groups, the claims of
the commit arbiter. -/

namespace Sys2Proof.Machine

/-! ### Parameters -/

/-- The default value of PRM word `i` (R43; both banks hold it at the release of RESET_N, R42). -/
def prmDefault (i : Nat) : Word :=
  if i < 32 then 5
  else if i < 40 then 15
  else if i < 50 then 0
  else if i < 52 then 500
  else if i = 52 then 200
  else if i = 53 then 3
  else if i = 54 then 15
  else 0

/-- Whether PRM word `i` may hold `w` in a bank that a SWAP makes live (R43, R50). -/
def prmValid (i : Nat) (w : Word) : Bool :=
  if i < 32 then w.toNat ≤ 255
  else if i < 40 then w.toNat ≤ 3 || w.toNat = 15
  else if i < 48 then w.toNat ≤ 255
  else if i < 50 then true
  else if i < 52 then 50 ≤ w.toNat && w.toNat ≤ 10000
  else if i = 52 then 20 ≤ w.toNat && w.toNat ≤ 5000
  else if i = 53 then w.toNat ≤ 7
  else if i = 54 then w.toNat ≤ 15
  else true

/-! ### Memory: words by index -/

/-- The word at index `a`; an index not listed holds its reset word. -/
def Memory.read (reset : Nat → Word) : Memory → Nat → Word
  | [], a => reset a
  | (k, w) :: m, a => if k = a then w else Memory.read reset m a

/-- Takes the entry of index `a` out of a list. -/
def Memory.erase (m : Memory) (a : Nat) : Memory := m.filter fun e => e.1 ≠ a

/-- Puts an entry for index `a` into a rising list. -/
def Memory.insert : Memory → Nat → Word → Memory
  | [], a, v => [(a, v)]
  | (k, w) :: m, a, v =>
    if a < k then (a, v) :: (k, w) :: m
    else if k = a then (a, v) :: m
    else (k, w) :: Memory.insert m a v

/-- Writes `v` at index `a`, keeping the canonical form: the reset word of an index is not listed. -/
def Memory.write (reset : Nat → Word) (m : Memory) (a : Nat) (v : Word) : Memory :=
  if v = reset a then m.erase a else m.insert a v

/-- Indices rise strictly, from above `below`, and stay under `size`; no entry holds its reset word. -/
def Memory.wfFrom (reset : Nat → Word) (size : Nat) : Nat → Memory → Bool
  | _, [] => true
  | below, (k, w) :: m =>
    decide (below ≤ k) && decide (k < size) && decide (w ≠ reset k) && Memory.wfFrom reset size (k + 1) m

/-- The canonical form of a memory. -/
def Memory.wf (reset : Nat → Word) (size : Nat) (m : Memory) : Bool := Memory.wfFrom reset size 0 m

/-! ### The image -/

/-- The edit bank is always the other bank (R41). -/
def Bank.other : Bank → Bank
  | .bank0 => .bank1
  | .bank1 => .bank0

/-- The live bank indicator as a number (R41). -/
def Bank.toNat : Bank → Nat
  | .bank0 => 0
  | .bank1 => 1

/-- The size of an area in words, PRM within one bank (R1). -/
def Area.size : Area → Nat
  | .inp => 2
  | .out => 2
  | .wrd => 1024
  | .prm => 128
  | .dia => 40

/-- The area a region belongs to. -/
def Region.area : Region → Area
  | .inp => .inp
  | .out => .out
  | .wrd => .wrd
  | .prm _ => .prm

/-- The reset word of each index of a region (R6, R42). -/
def Region.resetWord : Region → Nat → Word
  | .prm _, i => prmDefault i
  | _, _ => 0

/-- The memory of a region. -/
def Image.region (im : Image) : Region → Memory
  | .inp => im.inp
  | .out => im.out
  | .wrd => im.wrd
  | .prm .bank0 => im.bank0
  | .prm .bank1 => im.bank1

/-- Replaces the memory of a region. -/
def Image.setRegion (im : Image) (r : Region) (m : Memory) : Image :=
  match r with
  | .inp => { im with inp := m }
  | .out => { im with out := m }
  | .wrd => { im with wrd := m }
  | .prm .bank0 => { im with bank0 := m }
  | .prm .bank1 => { im with bank1 := m }

/-- The word at index `i` of a region. -/
def Image.word (im : Image) (r : Region) (i : Nat) : Word := Memory.read r.resetWord (im.region r) i

/-- Writes one word of a region; an index outside it, which no accepted transfer has (R5), names no word. -/
def Image.writeWord (im : Image) (r : Region) (i : Nat) (v : Word) : Image :=
  if i < r.area.size then im.setRegion r (Memory.write r.resetWord (im.region r) i v) else im

/-- Writes the words of a list at index `i` and onward. -/
def Image.writeWords (im : Image) (r : Region) : Nat → List Word → Image
  | _, [] => im
  | i, v :: vs => (im.writeWord r i v).writeWords r (i + 1) vs

/-- The bank that is not live (R41). -/
def Image.edit (im : Image) : Bank := im.live.other

/-- Word `i` of the live bank. -/
def Image.liveWord (im : Image) (i : Nat) : Word := im.word (.prm im.live) i

/-- Word `i` of the edit bank. -/
def Image.editWord (im : Image) (i : Nat) : Word := im.word (.prm im.edit) i

/-- Every stored area is in its canonical form. -/
def Image.wf (im : Image) : Bool :=
  Memory.wf (Region.resetWord .inp) 2 im.inp && Memory.wf (Region.resetWord .out) 2 im.out &&
    Memory.wf (Region.resetWord .wrd) 1024 im.wrd &&
    Memory.wf (Region.resetWord (.prm .bank0)) 128 im.bank0 &&
    Memory.wf (Region.resetWord (.prm .bank1)) 128 im.bank1

/-- The generation rises by one, modulo 2^32 (R21). -/
def Image.bumpGen (im : Image) : Image := { im with gen := im.gen + 1 }

/-- One word under a pair of masks (R12): set, clear, inverted where both masks are 1, else unchanged. -/
def maskWord (old set clear : Word) : Word :=
  (old &&& ~~~(set ||| clear)) ||| (set &&& ~~~clear) ||| (set &&& clear &&& ~~~old)

/-- Applies the pairs of a list at index `i` and onward, each to the word as it stands (R12). -/
def Image.maskWords (im : Image) (r : Region) : Nat → List (Word × Word) → Image
  | _, [] => im
  | i, (set, clear) :: ps => (im.writeWord r i (maskWord (im.word r i) set clear)).maskWords r (i + 1) ps

/-- Bit (n mod 16) of IN word (n div 16) takes a level (R2, R20). -/
def Image.setInput (im : Image) (n : Line) (level : Bool) : Image :=
  let bit : Word := 1 <<< (n.val % 16)
  let old := im.word .inp (n.val / 16)
  im.writeWord .inp (n.val / 16) (if level then old ||| bit else old &&& ~~~bit)

/-- The IN bit of a line (R2). -/
def Image.inputBit (im : Image) (n : Line) : Bool := (im.word .inp (n.val / 16)).getLsbD (n.val % 16)

/-! ### Ports, lines, groups -/

/-- The four ports, in order. -/
def allPorts : List Port := [0, 1, 2, 3]

/-- The 32 lines, in order. -/
def allLines : List Line := List.finRange 32

/-- The eight groups, in order. -/
def allGroups : List Group := [0, 1, 2, 3, 4, 5, 6, 7]

/-- A port's state. -/
def State.port (s : State) (p : Port) : PortState := s.ports.get p

/-- Replaces a port's state. -/
def State.setPort (s : State) (p : Port) (ps : PortState) : State := { s with ports := s.ports.set p ps }

/-- Changes a port's state by a function of it. -/
def State.modPort (s : State) (p : Port) (f : PortState → PortState) : State := s.setPort p (f (s.port p))

/-- Changes every port's state. -/
def State.mapPorts (s : State) (f : Port → PortState → PortState) : State :=
  { s with ports := Vector.ofFn fun p => f p (s.port p) }

/-- A line's filter. -/
def State.line (s : State) (n : Line) : LineFilter := s.lines.get n

/-- Replaces a line's filter. -/
def State.setLine (s : State) (n : Line) (l : LineFilter) : State := { s with lines := s.lines.set n l }

/-- A group's record. -/
def State.group (s : State) (g : Group) : GroupState := s.groups.get g

/-- Replaces a group's record. -/
def State.setGroup (s : State) (g : Group) (x : GroupState) : State := { s with groups := s.groups.set g x }

/-- Changes every group's record. -/
def State.mapGroups (s : State) (f : Group → GroupState → GroupState) : State :=
  { s with groups := Vector.ofFn fun g => f g (s.group g) }

/-! ### Claims -/

/-- Claims handed to the arbiter at one event: they arrive together, after every claim already waiting
(R7). -/
def State.handOver (s : State) (cs : List Claim) : State :=
  if cs.isEmpty then s else { s with claims := s.claims ++ [cs] }

/-- The arbiter takes a claim that `f` picks among the oldest: the claims that arrived first, together, may
be taken in either order, and no other claim may be taken yet (R7). -/
def takeClaim (f : Claim → Bool) : List (List Claim) → Option (Claim × List (List Claim))
  | [] => none
  | batch :: later =>
    match batch.find? f with
    | none => none
    | some c =>
      let left := batch.eraseP f
      some (c, if left.isEmpty then later else left :: later)

/-- The picks of the five claim rows: the claim of a port or line of the row's kind. -/
def Claim.isCommitOf (p : Port) : Claim → Bool
  | .commit q _ _ _ _ => q = p
  | _ => false

/-- The snapshot claim of a port. -/
def Claim.isSnapshotOf (p : Port) : Claim → Bool
  | .snapshot q _ _ _ _ => q = p
  | _ => false

/-- The input update claim of a line. -/
def Claim.isInputOf (n : Line) : Claim → Bool
  | .inputUpdate m _ => m = n
  | _ => false

/-- The SWAP claim of a port. -/
def Claim.isSwapOf (p : Port) : Claim → Bool
  | .swap q => q = p
  | _ => false

/-- The COPY claim of a port. -/
def Claim.isCopyOf (p : Port) : Claim → Bool
  | .copy q => q = p
  | _ => false

/-- A waiting snapshot claim of a port is withdrawn by its port reset (R19). -/
def State.withdrawSnapshot (s : State) (p : Port) : State :=
  { s with
    claims := (s.claims.map fun batch => batch.filter fun c => !c.isSnapshotOf p).filter fun batch => !batch.isEmpty }

/-- While RESET_N is low all activity stops (R6, R72, R110, R131, R140, R153): an event that would act then
has no effect. -/
def State.whenReleased (s : State) (f : State → State) : State := if s.resetLow then s else f s

end Sys2Proof.Machine
end

