-- ==== Sys2Proof/Machine/Inputs.lean ====
section
/-! DEFINITION. The Input Filter Unit: transitions, measurements, settling, input update claims. -/

namespace Sys2Proof.Machine

/-- The filter time of a line: word n of the live bank as it stands (R133). -/
def Image.filterTime (im : Image) (n : Line) : Nat := (im.liveWord n.val).toNat

/-- A line settles at a level: the measurement ends, and the update is handed over, held back, or cancels
the one held back (R136, R137). -/
def LineFilter.settle (l : LineFilter) (n : Line) (level : Bool) : LineFilter × List Claim :=
  let l' := { l with settled := level, measuring := none }
  match l.update with
  | .none => ({ l' with update := .waiting }, [.inputUpdate n level])
  | .waiting => ({ l' with update := .waitingHeld }, [])
  | .waitingHeld => ({ l' with update := .waiting }, [])

/-- A transition of the line level (R134, R135): it starts a measurement, settles at once with F = 0, or
cancels the measurement that runs. A level equal to the line level is no transition (R132). -/
def LineFilter.transition (l : LineFilter) (n : Line) (f : Nat) (level : Bool) : LineFilter × List Claim :=
  if level = l.level then (l, [])
  else
    let l' := { l with level := level }
    match l.measuring with
    | some _ => ({ l' with measuring := none }, [])
    | none =>
      if level = l.settled then (l', [])
      else if f = 0 then l'.settle n level
      else ({ l' with measuring := some { candidate := level, held := 0 } }, [])

/-- A line at a performed SWAP, with its filter time under the former and the new live bank (R139). -/
def LineFilter.newFilterTime (l : LineFilter) (n : Line) (former new : Nat) : LineFilter × List Claim :=
  match l.measuring with
  | none => (l, [])
  | some m =>
    if new = former then (l, [])
    else if new = 0 then l.settle n m.candidate
    else ({ l with measuring := some { m with held := 0 } }, [])

/-- Puts back a line's filter and hands its claim over. -/
def State.applyLine (s : State) (n : Line) (r : LineFilter × List Claim) : State :=
  (s.setLine n r.1).handOver r.2

/-- The Input Filter Unit takes up the new live bank of a performed SWAP, `former` being the image before
it; the claims of lines that settle come together (R139). -/
def State.inputSwap (s : State) (former : Image) : State :=
  let r (n : Line) := (s.line n).newFilterTime n (former.filterTime n) (s.image.filterTime n)
  { s with lines := Vector.ofFn fun n => (r n).1 }.handOver (allLines.flatMap fun n => (r n).2)

/-- INPUT_TRANSITION: while RESET_N is low the unit takes no transition (R140), and only the level of the
line is kept, which counts at the release. -/
def execInputTransition (n : Line) (level : Bool) (s : State) : Host.Outcome State Fault Refusal :=
  .next <|
    if s.resetLow then s.setLine n { s.line n with level := level }
    else s.applyLine n ((s.line n).transition n (s.image.filterTime n) level)

/-- The running measurement whose held time has reached the filter time: its expiry is due, and not before (R136). -/
def LineFilter.due (l : LineFilter) (f : Nat) : Option Measurement := l.measuring.filter fun m => f ≤ m.held

/-- MEASUREMENT_EXPIRY: once the held time has reached the line's filter time, the line settles at the candidate level
(R136). A measurement that a transition cancels or a SWAP restarts first has no expiry (R135, R139). -/
def execMeasurementExpiry (n : Line) (s : State) : Host.Outcome State Fault Refusal :=
  .next <| s.whenReleased fun s =>
    match (s.line n).due (s.image.filterTime n) with
    | some m => s.applyLine n ((s.line n).settle n m.candidate)
    | none => s

end Sys2Proof.Machine
end

