-- ==== Sys2Proof/Machine/Flags.lean ====
section
/-! DEFINITION. The Status Area: the saturating counters, the notice-enable bits, the words of DIA. -/

namespace Sys2Proof.Machine

/-- A count that stays at its highest value (R157 for the counters, R120 for the lost count). -/
def satInc {w : Nat} (c : BitVec w) : BitVec w := if c = BitVec.allOnes w then c else c + 1

/-- The lost count less the value a notice carried, not below 0 (R120). -/
def satSub {w : Nat} (c d : BitVec w) : BitVec w := if d.toNat ≤ c.toNat then c - d else 0

/-- Changes a port's counters. -/
def PortState.count (ps : PortState) (f : Counters → Counters) : PortState :=
  { ps with counters := f ps.counters }

/-- CRC discards rise (R64, R65). -/
def Counters.crc (c : Counters) : Counters := { c with crcDiscards := satInc c.crcDiscards }

/-- Framing and parity discards rise (R66). -/
def Counters.framing (c : Counters) : Counters := { c with framingDiscards := satInc c.framingDiscards }

/-- Gap discards rise (R63). -/
def Counters.gap (c : Counters) : Counters := { c with gapDiscards := satInc c.gapDiscards }

/-- Session timeouts rise (R108). -/
def Counters.timeout (c : Counters) : Counters := { c with timeouts := satInc c.timeouts }

/-- Retries rise (R108). -/
def Counters.retry (c : Counters) : Counters := { c with retries := satInc c.retries }

/-- The five counters in the order of their DIA words (R155). -/
def Counters.word (c : Counters) : Nat → Word
  | 0 => c.crcDiscards
  | 1 => c.framingDiscards
  | 2 => c.gapDiscards
  | 3 => c.timeouts
  | _ => c.retries

/-- A group state as DIA shows it (R154). -/
def GroupMode.word : GroupMode → Word
  | .unsupervised => 0
  | .armed => 1
  | .fallback => 2

/-- DIA word `i` as it stands (R155). -/
def State.diaWord (s : State) (i : Nat) : Word :=
  if i = 0 then Config.deviceCode
  else if i = 1 then Config.revision
  else if i = 2 then s.image.gen.extractLsb' 16 16
  else if i = 3 then s.image.gen.extractLsb' 0 16
  else if i = 4 then BitVec.ofNat 16 s.image.live.toNat
  else if i = 5 then BitVec.ofNat 16 s.holds.length
  else if i = 6 then s.rateCode.setWidth 16
  else if i = 7 then if s.parity then 1 else 0
  else if i < 16 then (s.group (Fin.ofNat 8 (i - 8))).mode.word
  else if i < 36 then (s.port (Fin.ofNat 4 ((i - 16) / 5))).counters.word ((i - 16) % 5)
  else if i < 40 then (s.port (Fin.ofNat 4 (i - 36))).notice.lost.setWidth 16
  else 0

/-- Word `i` of an area as a READ sees it; PRM by the EDIT flag, the banks as they stand (R3, R18). -/
def State.areaWord (s : State) (area : Area) (edit : Bool) (i : Nat) : Word :=
  match area with
  | .inp => s.image.word .inp i
  | .out => s.image.word .out i
  | .wrd => s.image.word .wrd i
  | .prm => if edit then s.image.editWord i else s.image.liveWord i
  | .dia => s.diaWord i

/-- Bit p of word 54 of a bank (R44). -/
def Image.enables (im : Image) (p : Port) : Bool := (im.liveWord 54).getLsbD p.val

/-- The notice-enable bit of a port as the live bank stands (R117). -/
def State.enabled (s : State) (p : Port) : Bool := s.image.enables p

end Sys2Proof.Machine
end

