-- ==== Sys2Proof/Machine/Operands.lean ====
section
/-! DEFINITION. The wire forms of OLP: byte order, the requests of R74, the codes of R73 to R76. -/

namespace Sys2Proof.Machine

/-- The high byte of a word. -/
def hiByte (w : Word) : Byte := w.extractLsb' 8 8

/-- The low byte of a word. -/
def loByte (w : Word) : Byte := w.extractLsb' 0 8

/-- A field of two bytes, high byte first (R74). -/
def wordOf (hi lo : Byte) : Word := hi ++ lo

/-- The two bytes of a word on the link. -/
def wordBytes (w : Word) : List Byte := [hiByte w, loByte w]

/-- The four bytes of a generation on the link. -/
def genBytes (g : Gen) : List Byte :=
  [g.extractLsb' 24 8, g.extractLsb' 16 8, g.extractLsb' 8 8, g.extractLsb' 0 8]

/-- The words in a run of bytes; a last odd byte makes none. -/
def wordsOf : List Byte → List Word
  | hi :: lo :: bs => wordOf hi lo :: wordsOf bs
  | _ => []

/-- Area codes (R1). -/
def Area.code : Area → Byte
  | .inp => 1
  | .out => 2
  | .wrd => 3
  | .prm => 4
  | .dia => 5

/-- The area that a code names, if any (R1). -/
def areaOf (code : Byte) : Option Area :=
  match code.toNat with
  | 1 => some .inp
  | 2 => some .out
  | 3 => some .wrd
  | 4 => some .prm
  | 5 => some .dia
  | _ => none

/-- Flags bit 0, EDIT (R74). -/
def editFlag (flags : Byte) : Bool := flags.getLsbD 0

/-- Flags bit 1, NOSELF (R74). -/
def noselfFlag (flags : Byte) : Bool := flags.getLsbD 1

/-- The kinds a master sends (R73). -/
inductive MasterKind where
  | req | dat | ack | nak | abt | nta
deriving DecidableEq, Repr

/-- The master kind of a KIND byte, if it is one (R65, R73). -/
def masterKindOf (kind : Byte) : Option MasterKind :=
  match kind.toNat with
  | 0x52 => some .req
  | 0x44 => some .dat
  | 0x41 => some .ack
  | 0x4B => some .nak
  | 0x58 => some .abt
  | 0x43 => some .nta
  | _ => none

/-- The KIND byte of each part kind (R73). -/
def PartKind.code : PartKind → Byte
  | .rsp => 0x72
  | .dat => 0x64
  | .ack => 0x61
  | .nak => 0x6B
  | .fin => 0x66
  | .ntc => 0x63

/-- Reply codes (R76). -/
inductive ReplyCode where
  | accept | done | busy | badop | badarea | range | readonly | held | full | limit | overlap | notfound
  | notowner | invalid | badtag | duplicate | badlease
deriving DecidableEq, Repr

/-- The code byte of a reply (R76). -/
def ReplyCode.byte : ReplyCode → Byte
  | .accept => 0x00
  | .done => 0x01
  | .busy => 0x10
  | .badop => 0x11
  | .badarea => 0x12
  | .range => 0x13
  | .readonly => 0x14
  | .held => 0x15
  | .full => 0x16
  | .limit => 0x17
  | .overlap => 0x18
  | .notfound => 0x19
  | .notowner => 0x1A
  | .invalid => 0x1B
  | .badtag => 0x1C
  | .duplicate => 0x1D
  | .badlease => 0x1E

/-- FIN outcomes (R76). -/
inductive FinOutcome where
  | ok | held | stale | timeout | retries | aborted
deriving DecidableEq, Repr

/-- The outcome byte of a FIN (R76). -/
def FinOutcome.byte : FinOutcome → Byte
  | .ok => 0
  | .held => 1
  | .stale => 2
  | .timeout => 3
  | .retries => 4
  | .aborted => 5

/-- The kind byte of a notice (R76). -/
def NoticeKind.byte : NoticeKind → Byte
  | .change => 1
  | .holdlost => 2
  | .fallback => 3

/-- The fields of a request, by operation (R74). -/
inductive Request where
  | read (area flags : Byte) (first count : Word)
  | write (area flags : Byte) (first count : Word)
  | mwrite (area flags : Byte) (first count : Word)
  | hold (area : Byte) (first count lease : Word)
  | release (holdId : Byte)
  | renew (holdId : Byte) (lease : Word)
  | subscribe (area flags : Byte) (first count : Word)
  | unsubscribe (subId : Byte)
  | swap
  | copy
  | ping
deriving DecidableEq, Repr

/-- The operation codes (R74). -/
def Request.op : Request → Byte
  | .read _ _ _ _ => 1
  | .write _ _ _ _ => 2
  | .mwrite _ _ _ _ => 3
  | .hold _ _ _ _ => 4
  | .release _ => 5
  | .renew _ _ => 6
  | .subscribe _ _ _ _ => 7
  | .unsubscribe _ => 8
  | .swap => 9
  | .copy => 10
  | .ping => 11

/-- The bytes after the operation code (R74). -/
def Request.fields : Request → List Byte
  | .read a f i n => a :: f :: (wordBytes i ++ wordBytes n)
  | .write a f i n => a :: f :: (wordBytes i ++ wordBytes n)
  | .mwrite a f i n => a :: f :: (wordBytes i ++ wordBytes n)
  | .hold a i n l => a :: (wordBytes i ++ wordBytes n ++ wordBytes l)
  | .release i => [i]
  | .renew i l => i :: wordBytes l
  | .subscribe a f i n => a :: f :: (wordBytes i ++ wordBytes n)
  | .unsubscribe i => [i]
  | .swap => []
  | .copy => []
  | .ping => []

/-- The payload of a REQ: tag, operation code, fields (R74). -/
def Request.payload (tag : Byte) (r : Request) : List Byte := tag :: r.op :: r.fields

/-- Reads a request from its operation code and the bytes after it. None: the code is not 1 to 11 or the
length does not fit it (R80, steps 4 and 5, which give the same reply). -/
def requestOf (op : Byte) (fields : List Byte) : Option Request :=
  match op.toNat, fields with
  | 1, [a, f, i1, i0, n1, n0] => some (.read a f (wordOf i1 i0) (wordOf n1 n0))
  | 2, [a, f, i1, i0, n1, n0] => some (.write a f (wordOf i1 i0) (wordOf n1 n0))
  | 3, [a, f, i1, i0, n1, n0] => some (.mwrite a f (wordOf i1 i0) (wordOf n1 n0))
  | 4, [a, i1, i0, n1, n0, l1, l0] => some (.hold a (wordOf i1 i0) (wordOf n1 n0) (wordOf l1 l0))
  | 5, [i] => some (.release i)
  | 6, [i, l1, l0] => some (.renew i (wordOf l1 l0))
  | 7, [a, f, i1, i0, n1, n0] => some (.subscribe a f (wordOf i1 i0) (wordOf n1 n0))
  | 8, [i] => some (.unsubscribe i)
  | 9, [] => some .swap
  | 10, [] => some .copy
  | 11, [] => some .ping
  | _, _ => none

/-- The request of a REQ payload, tag aside. -/
def requestOfPayload : List Byte → Option Request
  | _ :: op :: fields => requestOf op fields
  | _ => none

/-- The tag that opens the payload of every frame but NTA and NTC. -/
def tagOf (payload : List Byte) : Byte := payload.headD 0

/-- The detail of a refusal: a word, a hold id standing in its low byte (R75). -/
def idDetail (id : Byte) : Word := id.setWidth 16

end Sys2Proof.Machine
end

