-- ==== Sys2Proof/Machine/Link.lean ====
section
/-! DEFINITION. Link framing: characters, CRC, frame assembly, the transmitter with its queue and slot. -/

namespace Sys2Proof.Machine

/-! ### CRC and characters -/

/-- One bit of the CRC register with generator x^16 + x^12 + x^5 + 1 (R61). -/
def crcBit (c : Word) : Word := if c.msb then (c <<< 1) ^^^ 0x1021 else c <<< 1

/-- `n` bits of the CRC register. -/
def crcBits : Nat → Word → Word
  | 0, c => c
  | n + 1, c => crcBits n (crcBit c)

/-- One byte fed into the CRC register, most significant bit first (R61). -/
def crcByte (c : Word) (b : Byte) : Word := crcBits 8 (c ^^^ (b.setWidth 16 <<< 8))

/-- The CRC-16 of a run of bytes, preset 0xFFFF, no final inversion (R61). -/
def crc16 (bs : List Byte) : Word := bs.foldl crcByte 0xFFFF

/-- The bytes of a frame on the link, from LEAD to the low CRC byte (R61, R70). -/
def frameBytes (kind : Byte) (payload : List Byte) : List Byte :=
  let body := kind :: BitVec.ofNat 8 payload.length :: payload
  Config.lead :: (body ++ wordBytes (crc16 body))

/-- The parity bit that makes the number of data bits and parity bit at mark even (R60). -/
def parityOf (b : Byte) : Bool := (List.range 8).foldl (fun acc i => acc ^^ b.getLsbD i) false

/-- The levels of a character on the line, true for mark: start bit, data bits least significant first,
parity bit when parity is strapped, stop bit (R60). -/
def charLevels (parity : Bool) (b : Byte) : List Bool :=
  false :: ((List.range 8).map b.getLsbD ++ (if parity then [parityOf b] else []) ++ [true])

/-- The levels the transmitter puts on its line for the frame in progress, characters back to back (R70);
none in progress leaves the line at mark. -/
def State.txLevels (s : State) (p : Port) : List Bool :=
  match (s.port p).tx.sending with
  | some f => f.wire.flatMap (charLevels s.parity)
  | none => []

/-- What the examination of a complete character finds (R60). -/
inductive CharKind where
  | good | parityError | framingError
deriving DecidableEq, Repr

/-- The examination of a character: stop bit first, then parity if strapped (R60). -/
def charKind (parity : Bool) (data : Byte) (parityBit stopBit : Bool) : CharKind :=
  if !stopBit then .framingError
  else if parity && parityBit != parityOf data then .parityError
  else .good

/-! ### Frame assembly -/

/-- What becomes of the frame in assembly at a good character. -/
inductive Judged where
  | goesOn
  | discarded
  | valid (kind : MasterKind) (payload : List Byte)
deriving DecidableEq, Repr

/-- Whether a frame is in assembly (R62: KIND, LENGTH, PAYLOAD or CHECK). -/
def Assembly.active : Assembly → Bool
  | .hunt => false
  | .brk => false
  | .kind => true
  | .length _ => true
  | .payload _ _ _ _ => true
  | .check _ _ _ _ => true

/-- The judging of a complete frame: CRC first, then KIND (R65). -/
def judgeFrame (kind len : Byte) (payload : List Byte) (crc : Word) : Judged :=
  if crc16 (kind :: len :: payload) ≠ crc then .discarded
  else
    match masterKindOf kind with
    | some k => .valid k payload
    | none => .discarded

/-- A good character taken in each frame assembly state (R62, R64, R65). -/
def Assembly.take (a : Assembly) (b : Byte) : Assembly × Judged :=
  match a with
  | .hunt => (if b = Config.lead then .kind else .hunt, .goesOn)
  | .kind => (.length b, .goesOn)
  | .length k =>
    if Config.maxLen < b.toNat then (.hunt, .discarded)
    else if b.toNat = 0 then (.check k b [] none, .goesOn)
    else (.payload k b [] b.toNat, .goesOn)
  | .payload k n got due =>
    (if due ≤ 1 then .check k n (got ++ [b]) none else .payload k n (got ++ [b]) (due - 1), .goesOn)
  | .check k n got none => (.check k n got (some b), .goesOn)
  | .check k n got (some high) => (.hunt, judgeFrame k n got (wordOf high b))
  | .brk => (.brk, .goesOn)

/-- A port is held from its port reset until its line returns to mark, which is while its receiver is in
BREAK (R68, R78). -/
def PortState.held (ps : PortState) : Bool := ps.rx.assembly = .brk

/-- The receiver after a character whose stop bit was at mark: it is complete and its line at mark, and
the pause after it is timed if a frame is in assembly (R63). -/
def Receiver.complete (rx : Receiver) (a : Assembly) : Receiver :=
  { rx with assembly := a, gapTiming := a.active, inCharacter := false, line := .mark }

/-- The receiver drops the frame in assembly and hunts again (R62), its line at mark. -/
def Receiver.drop (_rx : Receiver) : Receiver := Receiver.reset .mark

/-- A framing or parity error taken: the frame in assembly, if any, is discarded and counted (R66); in HUNT
the character is skipped uncounted (R62). -/
def PortState.charError (ps : PortState) : PortState :=
  let ps' := if ps.rx.assembly.active then ps.count Counters.framing else ps
  { ps' with rx := ps.rx.drop }

/-! ### The transmitter -/

/-- Hands a frame to the line: it is in progress from here on. -/
def Transmitter.start (tx : Transmitter) (f : TxFrame) : Transmitter :=
  { tx with sending := some { frame := f, wire := frameBytes f.kind.code f.payload } }

/-- A free transmitter of a port that is not held begins the next frame: the oldest session frame, else
the NTC in the notice slot (R70, R69). When it does so is the model's choice (log entry 21): at the event that forms a
session frame, at the end of a frame or of a break, and else at a step on an empty queue. -/
def PortState.pump (ps : PortState) : PortState :=
  if ps.tx.sending.isSome || ps.held then ps
  else
    match ps.tx.queue with
    | f :: rest => { ps with tx := { ps.tx with queue := rest }.start f }
    | [] =>
      match ps.tx.slot with
      | some f => { ps with tx := { ps.tx with slot := none }.start f }
      | none => ps

/-- A frame waits for a transmitter that is free to begin it. -/
def PortState.waitsToBegin (ps : PortState) : Bool :=
  ps.tx.sending.isNone && !ps.held && (!ps.tx.queue.isEmpty || ps.tx.slot.isSome)

/-- The transfer's FIN is reported sent: the record takes the exchange, the buffer is emptied, the session
record discarded and the state IDLE (R103). -/
def PortState.close (ps : PortState) (reply : List Byte) : PortState :=
  match ps.transfer with
  | some t =>
    if t.closing then
      { ps with
        record := some { request := t.request, replyKind := .fin, reply := reply }
        buffer := []
        transfer := none
        session := .idle }
    else ps
  | none => ps

/-- T_ack starts, or restarts, when a DAT of the current seq is reported sent (R97). No timer runs while a
transfer is closing (R103), so it does not start then (log entry 12). R97 names the seq alone, and so does the model: a
DAT of an earlier read, still on the line when its transfer closed, starts T_ack too if its seq is the current one of
the read then open. That is the model's choice (log entry 22). -/
def PortState.startTAck (ps : PortState) (seq : Nat) : PortState :=
  match ps.transfer with
  | some t =>
    if ps.session = .sending ∧ t.closing = false ∧ t.snapGen.isSome = true ∧ t.seq = seq then
      { ps with tAck := some t.wait }
    else ps
  | none => ps

/-- A session frame's producer is told that it is sent (R70), or removed unsent (R71). -/
def PortState.reportSession (ps : PortState) (f : TxFrame) : PortState :=
  match f.origin with
  | .reply => ps
  | .segment seq => ps.startTAck seq
  | .closing => ps.close f.payload
  | .notice => ps

/-- A frame joins the session frame queue at the tail. When the queue is full its oldest frame is removed,
unsent, and its producer told that it is sent (R71). The transmitter begins it if it is free (R70). -/
def PortState.form (ps : PortState) (f : TxFrame) : PortState :=
  match ps.tx.queue with
  | oldest :: rest =>
    if Config.maxFrames ≤ rest.length + 1 then
      ({ ps with tx := { ps.tx with queue := rest ++ [f] } }.reportSession oldest).pump
    else { ps with tx := { ps.tx with queue := oldest :: rest ++ [f] } }.pump
  | [] => { ps with tx := { ps.tx with queue := [f] } }.pump

/-- An RSP: the request's tag, the code, the detail bytes (R75). A final reply replaces the last exchange
record as it is formed (R84). -/
def PortState.respond (ps : PortState) (request : List Byte) (code : ReplyCode) (detail : List Byte)
    (final : Bool) : PortState :=
  let body := tagOf request :: code.byte :: detail
  let ps' := if final then { ps with record := some { request := request, replyKind := .rsp, reply := body } } else ps
  ps'.form { kind := .rsp, payload := body, origin := .reply }

/-- A refusal that is final (R84), with its detail word (R75). -/
def PortState.refuse (ps : PortState) (request : List Byte) (code : ReplyCode) (detail : Word) : PortState :=
  ps.respond request code (wordBytes detail) true

end Sys2Proof.Machine
end

