-- ==== Sys2Proof/Machine/Notices.lean ====
section
/-! DEFINITION. The Notice Unit and notice delivery: reports, items, the queue, sending, NTA, T_ntc. -/

namespace Sys2Proof.Machine

/-- Changes a port's notice state. -/
def PortState.modNotice (ps : PortState) (f : NoticeState → NoticeState) : PortState :=
  { ps with notice := f ps.notice }

/-- The outstanding notice: the head entry, once its sent flag is set (R121). -/
def NoticeState.outstanding (ns : NoticeState) : Option Notice :=
  match ns.queue with
  | e :: _ => if e.sent.isSome then some e else none
  | [] => none

/-! ### Items and the queue -/

/-- Whether an entry is the unsent CHANGE of a subscription. -/
def Notice.unsentChangeOf (id : Byte) (e : Notice) : Bool :=
  e.kind = .change && e.sent.isNone && e.refId = id

/-- The entry after an item is merged into it (R119, first way). -/
def Notice.merge (e item : Notice) : Notice :=
  { e with
    first := min e.first item.first
    last := max e.last item.last
    gen := item.gen
    cause := if item.cause = e.cause then e.cause else 15 }

/-- Merges an item into the first unsent CHANGE entry of its subscription. -/
def mergeInto (item : Notice) : List Notice → List Notice
  | [] => []
  | e :: es => if e.unsentChangeOf item.refId then e.merge item :: es else e :: mergeInto item es

/-- An item is merged, joins, or is lost (R119). -/
def NoticeState.place (ns : NoticeState) (item : Notice) : NoticeState :=
  if item.kind = .change && ns.queue.any (Notice.unsentChangeOf item.refId) then
    { ns with queue := mergeInto item ns.queue }
  else if ns.queue.length < Config.maxNotices then { ns with queue := ns.queue ++ [item] }
  else { ns with lost := satInc ns.lost }

/-! ### Delivery -/

/-- The NTC of an entry: every copy is the same (R122, R75). -/
def ntcFrame (e : Notice) : TxFrame :=
  let info := e.sent.getD { seq := 0, lost := 0 }
  { kind := .ntc
    payload :=
      [info.seq, e.kind.byte, e.refId, e.area.code] ++ wordBytes (BitVec.ofNat 16 e.first) ++
        wordBytes (BitVec.ofNat 16 e.last) ++ genBytes e.gen ++ [e.cause, info.lost]
    origin := .notice }

/-- A port is free: IDLE, not pending, not held (R78). An event judges this after its REQ is handled. -/
def PortState.free (ps : PortState) : Bool :=
  ps.session = .idle && ps.bankRequest.isNone && !ps.held

/-- The conditions of R121 that stand in the port: free, not paused, and something to send. -/
def PortState.readyToSend (ps : PortState) : Bool :=
  ps.free && !ps.notice.paused && !ps.notice.queue.isEmpty

/-- The NTC of an entry goes into the notice slot and the port into NOTIFYING (R121). It waits there until the
transmitter begins it, and may be taken back until then (R70, R129; log entry 21). -/
def PortState.placeNtc (ps : PortState) (e : Notice) : PortState :=
  { ps with session := .notifying, tx := { ps.tx with slot := some (ntcFrame e) } }

/-- Delivery sends: the outstanding notice again, or the head entry by its first transmission (R121). -/
def PortState.send (ps : PortState) : PortState :=
  match ps.notice.queue with
  | [] => ps
  | e :: rest =>
    if e.sent.isSome then ps.placeNtc e
    else
      let e' := { e with sent := some { seq := ps.notice.seqCounter, lost := ps.notice.lost } }
      { ps with
        notice := { ps.notice with
          queue := e' :: rest
          seqCounter := ps.notice.seqCounter + 1
          retry := 0 } }.placeNtc e'

/-- Delivery judges whether to send, under the port's notice-enable bit, and sends if all conditions of R121
hold. -/
def PortState.deliver (ps : PortState) (enabled : Bool) : PortState :=
  if enabled && ps.readyToSend then ps.send else ps

/-- Delivery of a port judges whether to send (R121). -/
def State.judge (s : State) (p : Port) : State := s.modPort p fun ps => ps.deliver (s.enabled p)

/-- The NTC still waiting in the notice slot is taken back unsent (R70). -/
def PortState.takeBack (ps : PortState) : PortState := { ps with tx := { ps.tx with slot := none } }

/-- A port in NOTIFYING returns to IDLE; a port in another state stays in it. -/
def PortState.leaveNotifying (ps : PortState) : PortState :=
  if ps.session = .notifying then { ps with session := .idle } else ps

/-- The wait of the outstanding notice is suspended by a REQ in NOTIFYING (R126, R81). -/
def PortState.suspendNotice (ps : PortState) : PortState :=
  (ps.modNotice fun ns => { ns with tNtc := none }).takeBack.leaveNotifying

/-- An NTC is reported sent. T_ntc starts if the port is in NOTIFYING with a notice outstanding and this is
the copy placed last, which is so when the slot is empty (R123, log entry 11). -/
def PortState.reportNotice (ps : PortState) (wait : Nat) : PortState :=
  if ps.session = .notifying ∧ ps.notice.outstanding.isSome = true ∧ ps.tx.slot = none then
    ps.modNotice fun ns => { ns with tNtc := some wait }
  else ps

/-- The head entry leaves the queue at its acknowledgement, and the lost value it carried comes off the
lost count (R124, R120). -/
def NoticeState.acknowledge (ns : NoticeState) (carried : Byte) : NoticeState :=
  { ns with queue := ns.queue.tail, lost := satSub ns.lost carried, retry := 0, tNtc := none }

/-- An NTA of one byte whose seq is the outstanding notice's acknowledges it; any other is ignored (R124). -/
def PortState.takeNta (ps : PortState) (payload : List Byte) : PortState :=
  match payload, ps.notice.outstanding with
  | [seq], some e =>
    match e.sent with
    | some info =>
      if info.seq = seq then
        (ps.modNotice fun ns => ns.acknowledge info.lost).takeBack.leaveNotifying
      else ps
    | none => ps
  | _, _ => ps

/-- The head entry is dropped after too many retries: counted as lost, delivery paused (R125). -/
def NoticeState.dropHead (ns : NoticeState) : NoticeState :=
  { ns with queue := ns.queue.tail, lost := satInc ns.lost, retry := 0, paused := true, tNtc := none }

/-- The notice whose T_ntc wait has run out, and not before; the wait runs in NOTIFYING only (R123, R126). -/
def PortState.noticeDue (ps : PortState) : Option Notice :=
  if ps.session = .notifying ∧ ps.notice.tNtc = some 0 then ps.notice.outstanding else none

/-- The T_ntc wait of notice `e` expires (R125), under the live retry limit and the port's notice-enable bit. -/
def PortState.noticeExpiry (ps : PortState) (e : Notice) (limit : Nat) (enabled : Bool) : PortState :=
  let ps' := ps.modNotice fun ns => { ns with retry := ns.retry + 1, tNtc := none }
  if ps'.notice.retry ≤ limit then
    if enabled then ps'.placeNtc e else ps'.leaveNotifying
  else (ps.modNotice NoticeState.dropHead).leaveNotifying

/-- T_NTC_EXPIRY: once the wait has run out, the notice is sent again, held back or dropped (R123, R125). -/
def execTNtcExpiry (p : Port) (s : State) : Host.Outcome State Fault Refusal :=
  .next <| s.whenReleased fun s =>
    s.modPort p fun ps =>
      match ps.noticeDue with
      | some e => ps.noticeExpiry e (s.image.liveWord 53).toNat (s.enabled p)
      | none => ps

/-! ### Reports -/

/-- The reports that concern subscriptions (R114), less the generation, which is the one standing. -/
inductive Report where
  | commit (area : Area) (first last : Nat) (p : Port)
  | input (word : Nat)
  | swap (indices : List Nat)
  | copy (indices : List Nat)
deriving DecidableEq, Repr

/-- The cause code of a report (R76). -/
def Report.cause : Report → Byte
  | .commit _ _ _ p => BitVec.ofNat 8 p.val
  | .input _ => 8
  | .swap _ => 9
  | .copy _ => 10

/-- From the lowest to the highest index of a rising list within a range, if any lies in it (R115). -/
def spanWithin (indices : List Nat) (first last : Nat) : Option (Nat × Nat) :=
  let inside := indices.filter fun i => first ≤ i && i ≤ last
  match inside.head?, inside.getLast? with
  | some a, some b => some (a, b)
  | _, _ => none

/-- The range of the CHANGE that a report makes for a subscription of port `q`, if it reaches it (R115). -/
def Report.reaches (r : Report) (q : Port) (sub : Subscription) : Option (Nat × Nat) :=
  match r with
  | .commit area first last p =>
    if sub.area = area ∧ first ≤ sub.last ∧ sub.first ≤ last ∧ (area = .prm → sub.edit = true) ∧
        (sub.noself = false ∨ q ≠ p) then
      some (max first sub.first, min last sub.last)
    else none
  | .input word =>
    if sub.area = .inp ∧ sub.first ≤ word ∧ word ≤ sub.last then some (word, word) else none
  | .swap indices => if sub.area = .prm then spanWithin indices sub.first sub.last else none
  | .copy indices =>
    if sub.area = .prm ∧ sub.edit = true then spanWithin indices sub.first sub.last else none

/-- The CHANGE item of a report for the subscription in place `i` (R115). -/
def changeItem (r : Report) (gen : Gen) (q : Port) (subs : Vector (Option Subscription) 4) (i : Fin 4) :
    Option Notice :=
  match subs.get i with
  | none => none
  | some sub =>
    (r.reaches q sub).map fun range =>
      { kind := .change, refId := BitVec.ofNat 8 (i.val + 1), area := sub.area, first := range.1,
        last := range.2, gen := gen, cause := r.cause, sent := none }

/-- The CHANGE items of a report for port `q`, in order of subscription id (R115). -/
def changeItems (r : Report) (gen : Gen) (q : Port) (subs : Vector (Option Subscription) 4) : List Notice :=
  [0, 1, 2, 3].filterMap (changeItem r gen q subs)

/-- Items of a report for one port: nothing is made while its notice-enable bit is 0 (R117); else they are
placed one after another (R119), and delivery judges whether to send (R121). -/
def PortState.notify (ps : PortState) (enabled : Bool) (items : List Notice) : PortState :=
  if enabled && !items.isEmpty then
    (ps.modNotice fun ns => items.foldl NoticeState.place ns).deliver enabled
  else ps

/-- A report is handled for each port; what it makes for one does not depend on another (R114). -/
def State.report (s : State) (r : Report) : State :=
  s.mapPorts fun q ps => ps.notify (s.enabled q) (changeItems r s.image.gen q ps.notice.subs)

/-- A HOLDLOST or FALLBACK item for its owner port (R116, R117). -/
def State.reportItem (s : State) (q : Port) (item : Notice) : State :=
  s.modPort q fun ps => ps.notify (s.enabled q) [item]

/-! ### SUBSCRIBE and UNSUBSCRIBE -/

/-- The first place of the table that holds no subscription: the smallest free id (R112). -/
def freePlace (subs : Vector (Option Subscription) 4) : Option (Fin 4) :=
  [0, 1, 2, 3].find? fun i => (subs.get i).isNone

/-- A range inside an area (R5, R29, R112). -/
def rangeInside (area : Area) (first count : Nat) : Bool :=
  1 ≤ count && first < area.size && first + count ≤ area.size

/-- The subscription a SUBSCRIBE request would make: EDIT stored for PRM only (R112). -/
def subscriptionOf (area : Area) (flags : Byte) (first count : Nat) : Subscription :=
  { area := area, edit := area = .prm && editFlag flags, noself := noselfFlag flags, first := first,
    last := first + count - 1 }

/-- A SUBSCRIBE is checked and makes a new subscription, or is refused (R112). -/
def PortState.subscribe (ps : PortState) (request : List Byte) (areaCode flags : Byte) (first count : Nat) :
    PortState :=
  match areaOf areaCode with
  | none => ps.refuse request .badarea 0
  | some area =>
    if area = .dia then ps.refuse request .badarea 0
    else if !rangeInside area first count then ps.refuse request .range 0
    else
      let sub := subscriptionOf area flags first count
      if [0, 1, 2, 3].any fun i : Fin 4 => ps.notice.subs.get i = some sub then ps.refuse request .duplicate 0
      else
        match freePlace ps.notice.subs with
        | none => ps.refuse request .limit 0
        | some i =>
          (ps.modNotice fun ns => { ns with subs := ns.subs.set i (some sub) }).respond request .done
            [BitVec.ofNat 8 (i.val + 1)] true

/-- The place that a subscription id names: ids 0 and 5 to 255 name none (R113). -/
def placeOf (subId : Byte) : Option (Fin 4) :=
  match subId.toNat with
  | 1 => some 0
  | 2 => some 1
  | 3 => some 2
  | 4 => some 3
  | _ => none

/-- Removes a subscription with its unsent CHANGE entry (R113). -/
def NoticeState.unsubscribe (ns : NoticeState) (i : Fin 4) (subId : Byte) : NoticeState :=
  { ns with subs := ns.subs.set i none, queue := ns.queue.filter fun e => !e.unsentChangeOf subId }

/-- An UNSUBSCRIBE removes the subscription, or is answered NOTFOUND (R113). -/
def PortState.unsubscribe (ps : PortState) (request : List Byte) (subId : Byte) : PortState :=
  match placeOf subId with
  | none => ps.refuse request .notfound 0
  | some i =>
    if (ps.notice.subs.get i).isNone then ps.refuse request .notfound 0
    else (ps.modNotice fun ns => ns.unsubscribe i subId).respond request .done [] true

end Sys2Proof.Machine
end

