-- ==== Sys2Proof/Machine/Outputs.lean ====
section
/-! DEFINITION. The Output Supervisor: groups, refresh and fallback, the driven levels of the lines. -/

namespace Sys2Proof.Machine

/-- A group is supervised under an owner word and a refresh word (R43, R142). -/
def supervised (owner refresh : Word) : Bool :=
  owner.toNat ≤ 3 && 1 ≤ refresh.toNat && refresh.toNat ≤ 255

/-- The refresh timer's run in ms (R144). -/
def refreshMs (refresh : Word) : Nat := refresh.toNat * 50

/-- The group of an output line (R141). -/
def groupOfLine (n : Line) : Group := ⟨n.val / 4, by omega⟩

/-- A group's bits in its OUT word and fallback word (R141). -/
def groupMask (g : Group) : Word := 0xF <<< (4 * (g.val % 4))

/-- What a line shows: its group's live fallback level in FALLBACK, its OUT bit otherwise (R141). -/
def State.lineLevel (s : State) (n : Line) : Bool :=
  if (s.group (groupOfLine n)).mode = .fallback then (s.image.liveWord (48 + n.val / 16)).getLsbD (n.val % 16)
  else (s.image.word .out (n.val / 16)).getLsbD (n.val % 16)

/-- The lines take their levels, at each of the events of R143. -/
def State.driveLines (s : State) : State := { s with driven := Vector.ofFn s.lineLevel }

/-- An OK commit in OUT by port `p` refreshes a group: it is supervised, `p` is its owner in force, and the
commit wrote one of its bits (R145). -/
def GroupState.refreshedBy (x : GroupState) (p : Port) (g : Group) (written : Word) : Bool :=
  x.mode ≠ .unsupervised && x.owner.toNat = p.val && (written &&& groupMask g) ≠ 0

/-- A refresh: the timer starts afresh, and a group in FALLBACK recovers (R146). -/
def GroupState.refreshed (x : GroupState) : GroupState :=
  { x with mode := .armed, timer := some (refreshMs x.refresh) }

/-- The report of an OK commit in OUT, with the bits written in each OUT word (R14, R145 to R147). -/
def State.outputCommit (s : State) (p : Port) (written : Nat → Word) : State :=
  (s.mapGroups fun g x => if x.refreshedBy p g (written (g.val / 4)) then x.refreshed else x).driveLines

/-- A group at a performed SWAP, with the owner and refresh words of the new live bank (R150, R52). -/
def GroupState.reevaluate (x : GroupState) (owner refresh : Word) : GroupState :=
  if owner = x.owner ∧ refresh = x.refresh then x
  else if supervised owner refresh then
    if x.mode = .fallback then { x with owner := owner, refresh := refresh }
    else { mode := .armed, owner := owner, refresh := refresh, timer := some (refreshMs refresh) }
  else { mode := .unsupervised, owner := owner, refresh := refresh, timer := none }

/-- The Output Supervisor takes up the new live bank of a performed SWAP (R150). -/
def State.outputSwap (s : State) : State :=
  (s.mapGroups fun g x =>
    x.reevaluate (s.image.liveWord (32 + g.val)) (s.image.liveWord (40 + g.val))).driveLines

/-- The port that an owner word names, if it names one (R43). -/
def ownerPort (owner : Word) : Option Port := if h : owner.toNat < 4 then some ⟨owner.toNat, h⟩ else none

/-- The FALLBACK item of a group (R116). -/
def fallbackItem (g : Group) (gen : Gen) : Notice :=
  { kind := .fallback, refId := BitVec.ofNat 8 g.val, area := .out, first := g.val / 4, last := g.val / 4,
    gen := gen, cause := 12, sent := none }

/-- A group enters FALLBACK: state, timer, lines, and the report to its owner (R148). -/
def State.enterFallback (s : State) (g : Group) : State :=
  let x := s.group g
  let s' := (s.setGroup g { x with mode := .fallback, timer := none }).driveLines
  match ownerPort x.owner with
  | some q => s'.reportItem q (fallbackItem g s'.image.gen)
  | none => s'

/-- The refresh timer, which runs only in ARMED, has run out: its expiry is due, and not before (R144). -/
def GroupState.due (x : GroupState) : Bool := x.mode = .armed && x.timer = some 0

/-- REFRESH_TIMER_EXPIRY: the group enters FALLBACK once its refresh timer has run out (R144, R148). -/
def execRefreshTimerExpiry (g : Group) (s : State) : Host.Outcome State Fault Refusal :=
  .next <| s.whenReleased fun s => if (s.group g).due then s.enterFallback g else s

end Sys2Proof.Machine
end

