-- ==== Sys2Proof/Machine/Holds.lean ====
section
/-! DEFINITION. The Hold Table: consultations, HOLD, RELEASE, RENEW, lease expiry, the next-id counter. -/

namespace Sys2Proof.Machine

/-- A hold and a range overlap: same area, at least one index in common (R25). -/
def Hold.overlaps (h : Hold) (area : Area) (first last : Nat) : Bool :=
  h.area = area && h.first ≤ last && first ≤ h.last

/-- The lowest id among entries. -/
def lowestId : List Hold → Option Byte
  | [] => none
  | h :: hs =>
    match lowestId hs with
    | none => some h.id
    | some i => some (if h.id.toNat ≤ i.toNat then h.id else i)

/-- The lowest id among the entries of other ports that overlap a range: the consultation at acceptance
and at commit (R37, R10, R38). -/
def blocking (holds : List Hold) (p : Port) (area : Area) (first last : Nat) : Option Byte :=
  lowestId (holds.filter fun h => h.owner ≠ p && h.overlaps area first last)

/-- The lowest id among a port's own entries that overlap a range (R29, check 5). -/
def ownOverlap (holds : List Hold) (p : Port) (area : Area) (first last : Nat) : Option Byte :=
  lowestId (holds.filter fun h => h.owner = p && h.overlaps area first last)

/-- The lowest id among the PRM entries of other ports: the consultation of a bank operation (R38, R49). -/
def blockingBanks (holds : List Hold) (p : Port) : Option Byte :=
  lowestId (holds.filter fun h => h.owner ≠ p && h.area = .prm)

/-- The next value of the next-id counter, from 255 to 1 (R26). -/
def nextIdValue (i : Byte) : Byte := if i = 255 then 1 else i + 1

/-- Goes on past values in use, at most `fuel` of them. -/
def skipUsed (used : List Byte) : Nat → Byte → Byte
  | 0, i => i
  | fuel + 1, i => if i ∈ used then skipUsed used fuel (nextIdValue i) else i

/-- The next-id counter advances past every id in use; with at most 16 entries it stops within 17 steps
(R26). -/
def advanceId (used : List Byte) (i : Byte) : Byte := skipUsed used 16 (nextIdValue i)

/-- A lease word in ms (R30). -/
def leaseMs (lease : Word) : Nat := lease.toNat * 100

/-- A lease of 1 to 600 (R29, check 3). -/
def leaseValid (lease : Word) : Bool := 1 ≤ lease.toNat && lease.toNat ≤ Config.maxLease

/-- The areas that can be held (R29, check 1). -/
def holdArea (code : Byte) : Option Area :=
  match areaOf code with
  | some .out => some .out
  | some .wrd => some .wrd
  | some .prm => some .prm
  | _ => none

/-- The checks of a HOLD in their order: the code and detail of the first that fails (R29). -/
def holdRefusal (holds : List Hold) (p : Port) (area : Area) (first count : Nat) (lease : Word) :
    Option (ReplyCode × Word) :=
  let last := first + count - 1
  if !rangeInside area first count then some (.range, 0)
  else if !leaseValid lease then some (.badlease, 0)
  else
    match blocking holds p area first last with
    | some id => some (.held, idDetail id)
    | none =>
      match ownOverlap holds p area first last with
      | some id => some (.overlap, idDetail id)
      | none =>
        if Config.maxHoldsPerPort ≤ (holds.filter fun h => h.owner = p).length then some (.limit, 0)
        else if Config.maxHolds ≤ holds.length then some (.full, 0)
        else none

/-- A HOLD that passes is granted: a new entry under the counter's id, and the counter advances past the
ids now in use (R30, R26). -/
def State.grantHold (s : State) (p : Port) (area : Area) (first count : Nat) (lease : Word) : State :=
  let entry : Hold :=
    { id := s.nextId, owner := p, area := area, first := first, last := first + count - 1, lease := leaseMs lease }
  let holds := s.holds ++ [entry]
  { s with holds := holds, nextId := advanceId (holds.map Hold.id) s.nextId }

/-- A HOLD request at the Hold Table, with its RSP (R28 to R31). -/
def State.performHold (s : State) (p : Port) (request : List Byte) (areaCode : Byte) (first count : Nat)
    (lease : Word) : State :=
  match holdArea areaCode with
  | none => s.modPort p fun ps => ps.refuse request .badarea 0
  | some area =>
    match holdRefusal s.holds p area first count lease with
    | some (code, detail) => s.modPort p fun ps => ps.refuse request code detail
    | none => (s.grantHold p area first count lease).modPort p fun ps => ps.respond request .done [s.nextId] true

/-- The entry with an id (R23: an entry is found by its id). -/
def findHold (holds : List Hold) (id : Byte) : Option Hold := holds.find? fun h => h.id = id

/-- Takes an entry out of the table. -/
def State.removeHold (s : State) (id : Byte) : State := { s with holds := s.holds.filter fun h => h.id ≠ id }

/-- A RELEASE request at the Hold Table, with its RSP (R32). -/
def State.performRelease (s : State) (p : Port) (request : List Byte) (id : Byte) : State :=
  match findHold s.holds id with
  | none => s.modPort p fun ps => ps.refuse request .notfound 0
  | some h =>
    if h.owner ≠ p then s.modPort p fun ps => ps.refuse request .notowner 0
    else (s.removeHold id).modPort p fun ps => ps.respond request .done [] true

/-- The lease remaining of an entry is set afresh (R33). -/
def State.renewHold (s : State) (id : Byte) (lease : Word) : State :=
  { s with holds := s.holds.map fun h => if h.id = id then { h with lease := leaseMs lease } else h }

/-- A RENEW request at the Hold Table, with its RSP (R33). -/
def State.performRenew (s : State) (p : Port) (request : List Byte) (id : Byte) (lease : Word) : State :=
  match findHold s.holds id with
  | none => s.modPort p fun ps => ps.refuse request .notfound 0
  | some h =>
    if h.owner ≠ p then s.modPort p fun ps => ps.refuse request .notowner 0
    else if !leaseValid lease then s.modPort p fun ps => ps.refuse request .badlease 0
    else (s.renewHold id lease).modPort p fun ps => ps.respond request .done [] true

/-- The HOLDLOST item of an entry (R35, R116). -/
def holdlostItem (h : Hold) (gen : Gen) : Notice :=
  { kind := .holdlost, refId := h.id, area := h.area, first := h.first, last := h.last, gen := gen, cause := 11,
    sent := none }

/-- Nothing is left of an entry's lease: its expiry is due, and not before (R34). -/
def Hold.runOut (h : Hold) : Bool := h.lease = 0

/-- LEASE_EXPIRY: once the lease has run out, the entry is removed and its owner told (R34, R35). An entry renewed or
released first has no expiry (R40). -/
def execLeaseExpiry (holdId : Byte) (s : State) : Host.Outcome State Fault Refusal :=
  .next <| s.whenReleased fun s =>
    match s.holds.find? fun h => h.id = holdId && h.runOut with
    | none => s
    | some h => (s.removeHold holdId).reportItem h.owner (holdlostItem h s.image.gen)

/-- All entries of a port are removed at its port reset, as one event, without HOLDLOST (R36). -/
def State.removeHoldsOf (s : State) (p : Port) : State :=
  { s with holds := s.holds.filter fun h => h.owner ≠ p }

end Sys2Proof.Machine
end

