-- ==== Sys2Proof/Machine/Sessions.lean ====
section
/-! DEFINITION. The session controller's transfers: acceptance, segments, DAT, ACK, NAK, ABT, FIN, T_seg,
T_ack, the last exchange record. -/

namespace Sys2Proof.Machine

/-! ### Segments -/

/-- Words or pairs in a full segment (R87). -/
def TransferOp.segmentSize : TransferOp → Nat
  | .read => 32
  | .write => 32
  | .mwrite => 16

/-- Bytes of a word or mask pair in a DAT (R74). -/
def TransferOp.unitBytes : TransferOp → Nat
  | .read => 2
  | .write => 2
  | .mwrite => 4

/-- The segment count: the count over the segment size, rounded up (R87). -/
def segmentCount (op : TransferOp) (count : Nat) : Nat := (count + op.segmentSize - 1) / op.segmentSize

/-- Words or pairs in segment `n` (R87). -/
def segmentUnits (op : TransferOp) (count n : Nat) : Nat := min op.segmentSize (count - op.segmentSize * n)

/-- The expected length of segment `n`: the LEN of its DAT (R87). -/
def expectedLen (op : TransferOp) (count n : Nat) : Nat := 2 + op.unitBytes * segmentUnits op count n

/-- The open tag. -/
def Transfer.tag (t : Transfer) : Byte := tagOf t.request

/-- The open transfer's segment count. -/
def Transfer.segments (t : Transfer) : Nat := segmentCount t.op t.count

/-- The word in slot `j` of a Transfer Buffer; a slot not filled is read by nothing (R107). -/
def slotWord (buffer : List Word) (j : Nat) : Word := buffer.getD j 0

/-- The words of segment `n` of a READ, from slot 32n (R97). -/
def segmentWords (t : Transfer) (buffer : List Word) (n : Nat) : List Word :=
  (List.range (segmentUnits .read t.count n)).map fun i => slotWord buffer (32 * n + i)

/-- The DAT of segment `n` of a READ (R97, R75). -/
def datFrame (t : Transfer) (buffer : List Word) (n : Nat) : TxFrame :=
  { kind := .dat
    payload := t.tag :: BitVec.ofNat 8 n :: (segmentWords t buffer n).flatMap wordBytes
    origin := .segment n }

/-- An ACK or NAK of a write segment (R75). -/
def answerFrame (kind : PartKind) (tag : Byte) (seq : Nat) : TxFrame :=
  { kind := kind, payload := [tag, BitVec.ofNat 8 seq], origin := .reply }

/-! ### Replies and the FIN -/

/-- The detail of RSP ACCEPT: the snapshot generation for a READ, then the segment count (R75). -/
def Transfer.acceptDetail (t : Transfer) : List Byte :=
  (match t.snapGen with
    | some g => genBytes g
    | none => []) ++ [BitVec.ofNat 8 t.segments]

/-- RSP ACCEPT of the open transfer; no final reply (R84). -/
def PortState.accept (ps : PortState) (t : Transfer) : PortState :=
  ps.respond t.request .accept t.acceptDetail false

/-- The FIN is formed: the transfer is closing, and no timer runs (R102, R103, R78). -/
def PortState.finish (ps : PortState) (t : Transfer) (outcome : FinOutcome) (gen : Gen) (detail : Byte) :
    PortState :=
  { ps with transfer := some { t with closing := true }, tSeg := none, tAck := none }.form
    { kind := .fin, payload := [t.tag, outcome.byte] ++ genBytes gen ++ [detail], origin := .closing }

/-! ### Acceptance -/

/-- The operation's limit of the count (R5). -/
def TransferOp.limit : TransferOp → Nat
  | .read => 256
  | .write => 256
  | .mwrite => 128

/-- Whether an area admits an operation (R4). -/
def Area.admits : Area → TransferOp → Bool
  | _, .read => true
  | .out, _ => true
  | .wrd, _ => true
  | .prm, .write => true
  | .prm, .mwrite => false
  | .inp, _ => false
  | .dia, _ => false

/-- The acceptance checks after the area code's, in their order: the code and detail of the first that fails
(R86, checks 2 to 4). -/
def transferRefusal (holds : List Hold) (p : Port) (op : TransferOp) (area : Area) (first count : Nat) :
    Option (ReplyCode × Word) :=
  if !area.admits op then some (.readonly, 0)
  else if !(rangeInside area first count && count ≤ op.limit) then some (.range, 0)
  else if op = .read then none
  else (blocking holds p area first (first + count - 1)).map fun id => (.held, idDetail id)

/-- The session record at acceptance, with the live bank's wait and retry limit (R88, R89, R90). The target
bank is recorded for a WRITE to PRM only (R46). -/
def newTransfer (im : Image) (request : List Byte) (op : TransferOp) (area : Area) (edit : Bool)
    (first count : Nat) : Transfer :=
  { request := request, op := op, area := area, edit := edit, first := first, count := count, seq := 0,
    retry := 0, retryLimit := (im.liveWord 53).toNat,
    wait := if op = .read then (im.liveWord 51).toNat else (im.liveWord 50).toNat,
    target := if op = .write ∧ area = .prm then some im.edit else none, snapGen := none, closing := false }

/-- At the acceptance of a READ: SENDING, and a snapshot claim (R90, R18). -/
def State.acceptRead (s : State) (p : Port) (t : Transfer) : State :=
  (s.modPort p fun ps => { ps with transfer := some t, session := .sending }).handOver
    [.snapshot p t.area t.edit t.first t.count]

/-- At the acceptance of a WRITE or MWRITE: RECEIVING, an empty buffer, T_seg, RSP ACCEPT (R89). -/
def State.acceptWrite (s : State) (p : Port) (t : Transfer) : State :=
  s.modPort p fun ps =>
    { ps with transfer := some t, session := .receiving, buffer := [], tSeg := some t.wait }.accept t

/-- A READ, WRITE or MWRITE is put to the acceptance checks and opens a transfer, or is refused (R86). -/
def State.performTransfer (s : State) (p : Port) (request : List Byte) (op : TransferOp)
    (areaCode flags : Byte) (first count : Nat) : State :=
  match areaOf areaCode with
  | none => s.modPort p fun ps => ps.refuse request .badarea 0
  | some area =>
    match transferRefusal s.holds p op area first count with
    | some (code, detail) => s.modPort p fun ps => ps.refuse request code detail
    | none =>
      let t := newTransfer s.image request op area (editFlag flags) first count
      if op = .read then s.acceptRead p t else s.acceptWrite p t

/-! ### RECEIVING -/

/-- The region a WRITE or MWRITE commits to; for PRM the bank recorded at acceptance (R8, R46). -/
def Transfer.region (t : Transfer) (edit : Bank) : Region :=
  match t.area with
  | .out => .out
  | .prm => .prm (t.target.getD edit)
  | _ => .wrd

/-- The operation a commit claim carries (R8). -/
def Transfer.writeOp (t : Transfer) : WriteOp := if t.op = .mwrite then .mwrite else .write

/-- The last segment is stored: COMMITTING, no timer, and the commit claim handed over (R101). -/
def State.handCommit (s : State) (p : Port) (t : Transfer) : State :=
  (s.modPort p fun ps => { ps with session := .committing, tSeg := none }).handOver
    [.commit p t.writeOp (t.region s.image.edit) t.first t.count]

/-- A DAT that is the expected segment is stored (R92). -/
def State.storeSegment (s : State) (p : Port) (t : Transfer) (data : List Byte) : State :=
  let stored (ps : PortState) (seq : Nat) : PortState :=
    { ps with buffer := ps.buffer ++ wordsOf data, transfer := some { t with retry := 0, seq := seq } }
  if t.seq + 1 < t.segments then
    s.modPort p fun ps => (stored ps (t.seq + 1)).form (answerFrame .ack t.tag t.seq)
  else (s.modPort p fun ps => stored ps t.seq).handCommit p t

/-- A fault of the segment sequence (R94): a retry is counted, and NAK or FIN RETRIES formed. -/
def PortState.segmentFault (ps : PortState) (t : Transfer) : PortState :=
  let t' := { t with retry := t.retry + 1 }
  let ps' := { ps with transfer := some t' }.count Counters.retry
  if t'.retry ≤ t.retryLimit then ps'.form (answerFrame .nak t.tag t.seq) else ps'.finish t' .retries 0 0

/-- A DAT with the open tag in RECEIVING (R91 to R94); every one restarts T_seg. -/
def State.receiveSegment (s : State) (p : Port) (t : Transfer) (seq : Byte) (data : List Byte) : State :=
  let s' := s.modPort p fun ps => { ps with tSeg := some t.wait }
  if seq.toNat = t.seq ∧ 2 + data.length = expectedLen t.op t.count t.seq then s'.storeSegment p t data
  else if seq.toNat + 1 = t.seq then s'.modPort p fun ps => ps.form (answerFrame .ack t.tag seq.toNat)
  else s'.modPort p fun ps => ps.segmentFault t

/-- The seq of the last segment of a recorded WRITE or MWRITE that closed with a FIN (R106). -/
def Exchange.lastSeq (x : Exchange) : Option Nat :=
  if x.replyKind ≠ .fin then none
  else
    match requestOfPayload x.request with
    | some (.write _ _ _ count) => some (segmentCount .write count.toNat - 1)
    | some (.mwrite _ _ _ count) => some (segmentCount .mwrite count.toNat - 1)
    | _ => none

/-- The recorded reply is formed again, identical to the first (R105, R106). -/
def PortState.resendRecord (ps : PortState) (x : Exchange) : PortState :=
  ps.form { kind := x.replyKind, payload := x.reply, origin := .reply }

/-- A DAT in IDLE or NOTIFYING is answered from the record, or dropped (R106). -/
def PortState.repeatedDat (ps : PortState) (tag seq : Byte) : PortState :=
  match ps.record with
  | some x => if tag = tagOf x.request ∧ x.lastSeq = some seq.toNat then ps.resendRecord x else ps
  | none => ps

/-- A master DAT (R79, R92 to R94, R96, R101, R103, R106). -/
def State.takeDat (s : State) (p : Port) (payload : List Byte) : State :=
  match payload with
  | tag :: seq :: data =>
    let ps := s.port p
    match ps.session, ps.transfer with
    | .idle, _ => s.modPort p fun ps => ps.repeatedDat tag seq
    | .notifying, _ => s.modPort p fun ps => ps.repeatedDat tag seq
    | .receiving, some t =>
      if t.closing = false ∧ tag = t.tag then s.receiveSegment p t seq data else s
    | _, _ => s
  | _ => s

/-! ### SENDING -/

/-- The open read, if its snapshot has been taken, it is not closing, and a frame of two bytes carries its
tag and current seq (R79, R90, R98, R99, R103). -/
def PortState.answeredSegment (ps : PortState) (payload : List Byte) : Option Transfer :=
  match payload, ps.session, ps.transfer with
  | [tag, seq], .sending, some t =>
    if t.closing = false ∧ t.snapGen.isSome = true ∧ tag = t.tag ∧ seq.toNat = t.seq then some t else none
  | _, _, _ => none

/-- A master ACK of the current seq forms the next DAT, or FIN OK (R98). -/
def PortState.takeAck (ps : PortState) (payload : List Byte) : PortState :=
  match ps.answeredSegment payload with
  | none => ps
  | some t =>
    let t' := { t with retry := 0 }
    if t.seq + 1 < t.segments then
      let t'' := { t' with seq := t.seq + 1 }
      { ps with transfer := some t'', tAck := none }.form (datFrame t'' ps.buffer (t.seq + 1))
    else { ps with tAck := none }.finish t' .ok (t.snapGen.getD 0) 0

/-- A retry of the current read segment: the DAT again, or FIN RETRIES past the limit (R99, R100). -/
def PortState.retrySegment (ps : PortState) (t : Transfer) : PortState :=
  let t' := { t with retry := t.retry + 1 }
  let ps' := { ps with transfer := some t', tAck := none }.count Counters.retry
  if t'.retry ≤ t.retryLimit then ps'.form (datFrame t' ps.buffer t.seq) else ps'.finish t' .retries 0 0

/-- A master NAK of the current seq (R99). -/
def PortState.takeNak (ps : PortState) (payload : List Byte) : PortState :=
  match ps.answeredSegment payload with
  | none => ps
  | some t => ps.retrySegment t

/-- A master ABT with the open tag ends the transfer in RECEIVING, and in SENDING once the snapshot has been
taken (R96). -/
def PortState.takeAbt (ps : PortState) (payload : List Byte) : PortState :=
  match payload, ps.transfer with
  | [tag], some t =>
    if t.closing = false ∧ tag = t.tag ∧
        (ps.session = .receiving ∨ ps.session = .sending ∧ t.snapGen.isSome = true) then
      ps.finish t .aborted 0 0
    else ps
  | _, _ => ps

/-- The transfer whose T_seg has run out, and not before; T_seg runs in RECEIVING, before a FIN is formed (R91). -/
def PortState.segDue (ps : PortState) : Option Transfer :=
  match ps.session, ps.transfer, ps.tSeg with
  | .receiving, some t, some 0 => some t
  | _, _, _ => none

/-- The transfer whose T_ack has run out, and not before; T_ack runs in SENDING, before a FIN is formed (R97). -/
def PortState.ackDue (ps : PortState) : Option Transfer :=
  match ps.session, ps.transfer, ps.tAck with
  | .sending, some t, some 0 => some t
  | _, _, _ => none

/-- T_SEG_EXPIRY: once T_seg has run out, FIN TIMEOUT ends the transfer (R91, R95). -/
def execTSegExpiry (p : Port) (s : State) : Host.Outcome State Fault Refusal :=
  .next <| s.whenReleased fun s =>
    s.modPort p fun ps =>
      match ps.segDue with
      | some t => (ps.count Counters.timeout).finish t .timeout 0 0
      | none => ps

/-- T_ACK_EXPIRY: once T_ack has run out, a timeout and a retry are counted (R97, R100). -/
def execTAckExpiry (p : Port) (s : State) : Host.Outcome State Fault Refusal :=
  .next <| s.whenReleased fun s =>
    s.modPort p fun ps =>
      match ps.ackDue with
      | some t => (ps.count Counters.timeout).retrySegment t
      | none => ps

end Sys2Proof.Machine
end

