-- ==== Sys2Proof/Machine/Requests.lean ====
section
/-! DEFINITION. The arrival of a valid frame at its port, and the meanings of the request rows and the
other frame rows. -/

namespace Sys2Proof.Machine

/-- A PING is answered with the generation, the live bank and the port's lost count (R85, R75). -/
def State.performPing (s : State) (p : Port) (request : List Byte) : State :=
  s.modPort p fun ps =>
    ps.respond request .done
      (genBytes s.image.gen ++ [BitVec.ofNat 8 s.image.live.toNat, ps.notice.lost]) true

/-- A SWAP or COPY request hands its claim over, and the port is pending (R83, R48). -/
def State.performBankOp (s : State) (p : Port) (request : List Byte) (claim : Claim) : State :=
  (s.modPort p fun ps => { ps with bankRequest := some (.owed request) }).handOver [claim]

/-- Step 6 of R80: the request is performed by the block that owns it. -/
def State.perform (s : State) (p : Port) (request : List Byte) : Request → State
  | .read area flags first count => s.performTransfer p request .read area flags first.toNat count.toNat
  | .write area flags first count => s.performTransfer p request .write area flags first.toNat count.toNat
  | .mwrite area flags first count => s.performTransfer p request .mwrite area flags first.toNat count.toNat
  | .hold area first count lease => s.performHold p request area first.toNat count.toNat lease
  | .release id => s.performRelease p request id
  | .renew id lease => s.performRenew p request id lease
  | .subscribe area flags first count =>
    s.modPort p fun ps => ps.subscribe request area flags first.toNat count.toNat
  | .unsubscribe id => s.modPort p fun ps => ps.unsubscribe request id
  | .swap => s.performBankOp p request (.swap p)
  | .copy => s.performBankOp p request (.copy p)
  | .ping => s.performPing p request

/-- Steps 2 to 6 of R80, at a port in IDLE. -/
def State.judgeRequest (s : State) (p : Port) (request : List Byte) : State :=
  match (s.port p).record.filter fun x => x.request = request with
  | some x => s.modPort p fun ps => ps.resendRecord x
  | none =>
    if tagOf request = 0 then s.modPort p fun ps => ps.respond request .badtag (wordBytes 0) false
    else
      match requestOfPayload request with
      | none => s.modPort p fun ps => ps.refuse request .badop 0
      | some r => s.perform p request r

/-- A REQ at a port that is neither free nor in NOTIFYING: ACCEPT again to a repeat of the open request,
nothing before the snapshot or while closing, BUSY to any other (R82). -/
def PortState.busy (ps : PortState) (request : List Byte) : PortState :=
  match ps.transfer.filter fun t => t.request = request with
  | some t =>
    if t.closing = true ∨ ps.session = .sending ∧ t.snapGen = none then ps else ps.accept t
  | none => ps.respond request .busy (wordBytes 0) false

/-- A REQ at its arrival (R79 to R82). -/
def State.takeReq (s : State) (p : Port) (request : List Byte) : State :=
  if request.length < 2 then s
  else
    match (s.port p).session with
    | .notifying => (s.modPort p PortState.suspendNotice).judgeRequest p request
    | .idle =>
      if (s.port p).bankRequest.isSome then s.modPort p fun ps => ps.busy request
      else s.judgeRequest p request
    | _ => s.modPort p fun ps => ps.busy request

/-- A frame of each master kind at its port (R67, R79). -/
def State.takeFrame (s : State) (p : Port) (kind : MasterKind) (payload : List Byte) : State :=
  match kind with
  | .req => s.takeReq p payload
  | .dat => s.takeDat p payload
  | .ack => s.modPort p fun ps => ps.takeAck payload
  | .nak => s.modPort p fun ps => ps.takeNak payload
  | .abt => s.modPort p fun ps => ps.takeAbt payload
  | .nta => s.modPort p fun ps => ps.takeNta payload

/-- A valid frame arrives (R67): it clears the paused flag (R127), is taken whole, and at the end of the
event delivery judges whether to send, after any reply has been formed (R127, R70, log entry 10). -/
def State.arrive (s : State) (p : Port) (kind : MasterKind) (payload : List Byte) : State :=
  ((s.modPort p fun ps => ps.modNotice fun ns => { ns with paused := false }).takeFrame p kind payload).judge p

/-- A frame row: no frame arrives while RESET_N is low (R110) or while the port is held (R68, R109). -/
def State.frameRow (s : State) (p : Port) (kind : MasterKind) (payload : List Byte) : State :=
  s.whenReleased fun s => if (s.port p).held then s else s.arrive p kind payload

/-- READ (R90). -/
def execRead (p : Port) (tag area flags : Byte) (first count : Word) (s : State) :
    Host.Outcome State Fault Refusal :=
  .next (s.frameRow p .req ((Request.read area flags first count).payload tag))

/-- WRITE (R89). -/
def execWrite (p : Port) (tag area flags : Byte) (first count : Word) (s : State) :
    Host.Outcome State Fault Refusal :=
  .next (s.frameRow p .req ((Request.write area flags first count).payload tag))

/-- MWRITE (R89). -/
def execMwrite (p : Port) (tag area flags : Byte) (first count : Word) (s : State) :
    Host.Outcome State Fault Refusal :=
  .next (s.frameRow p .req ((Request.mwrite area flags first count).payload tag))

/-- HOLD (R30). -/
def execHold (p : Port) (tag area : Byte) (first count lease : Word) (s : State) :
    Host.Outcome State Fault Refusal :=
  .next (s.frameRow p .req ((Request.hold area first count lease).payload tag))

/-- RELEASE (R32). -/
def execRelease (p : Port) (tag holdId : Byte) (s : State) : Host.Outcome State Fault Refusal :=
  .next (s.frameRow p .req ((Request.release holdId).payload tag))

/-- RENEW (R33). -/
def execRenew (p : Port) (tag holdId : Byte) (lease : Word) (s : State) : Host.Outcome State Fault Refusal :=
  .next (s.frameRow p .req ((Request.renew holdId lease).payload tag))

/-- SUBSCRIBE (R112). -/
def execSubscribe (p : Port) (tag area flags : Byte) (first count : Word) (s : State) :
    Host.Outcome State Fault Refusal :=
  .next (s.frameRow p .req ((Request.subscribe area flags first count).payload tag))

/-- UNSUBSCRIBE (R113). -/
def execUnsubscribe (p : Port) (tag subId : Byte) (s : State) : Host.Outcome State Fault Refusal :=
  .next (s.frameRow p .req ((Request.unsubscribe subId).payload tag))

/-- SWAP (R48). -/
def execSwap (p : Port) (tag : Byte) (s : State) : Host.Outcome State Fault Refusal :=
  .next (s.frameRow p .req (Request.swap.payload tag))

/-- COPY (R83, R55). -/
def execCopy (p : Port) (tag : Byte) (s : State) : Host.Outcome State Fault Refusal :=
  .next (s.frameRow p .req (Request.copy.payload tag))

/-- PING (R85). -/
def execPing (p : Port) (tag : Byte) (s : State) : Host.Outcome State Fault Refusal :=
  .next (s.frameRow p .req (Request.ping.payload tag))

/-- BAD_OPERATION (R80): a REQ whose operation code or length fits no operation. -/
def execBadOperation (p : Port) (tag op : Byte) (fields : List Byte) (s : State) :
    Host.Outcome State Fault Refusal :=
  .next (s.frameRow p .req (tag :: op :: fields))

/-- DAT (R92). -/
def execDat (p : Port) (payload : List Byte) (s : State) : Host.Outcome State Fault Refusal :=
  .next (s.frameRow p .dat payload)

/-- ACK (R98). -/
def execAck (p : Port) (payload : List Byte) (s : State) : Host.Outcome State Fault Refusal :=
  .next (s.frameRow p .ack payload)

/-- NAK (R99). -/
def execNak (p : Port) (payload : List Byte) (s : State) : Host.Outcome State Fault Refusal :=
  .next (s.frameRow p .nak payload)

/-- ABT (R96). -/
def execAbt (p : Port) (payload : List Byte) (s : State) : Host.Outcome State Fault Refusal :=
  .next (s.frameRow p .abt payload)

/-- NTA (R124). -/
def execNta (p : Port) (payload : List Byte) (s : State) : Host.Outcome State Fault Refusal :=
  .next (s.frameRow p .nta payload)

end Sys2Proof.Machine
end

