-- ==== Sys2Proof/Machine/Arbiter.lean ====
section
/-! DEFINITION. The commit arbiter: what it does when it takes a commit, a snapshot or an input update. -/

namespace Sys2Proof.Machine

/-! ### COMMIT -/

/-- What the checks of a commit find (R13). -/
inductive CommitResult where
  | ok
  | held (id : Byte)
  | stale
deriving DecidableEq, Repr

/-- The staleness check, then the hold check (R8, R9, R10). -/
def commitCheck (im : Image) (holds : List Hold) (p : Port) (region : Region) (first count : Nat) :
    CommitResult :=
  if region = .prm im.live then .stale
  else
    match blocking holds p region.area first (first + count - 1) with
    | some id => .held id
    | none => .ok

/-- The staged words of a WRITE: slots 0 to count − 1 (R8, R87). -/
def stagedWords (buffer : List Word) (count : Nat) : List Word := (List.range count).map (slotWord buffer)

/-- The staged pairs of an MWRITE: pair j in slots 2j, the set mask, and 2j + 1, the clear mask (R8, R87). -/
def stagedPairs (buffer : List Word) (count : Nat) : List (Word × Word) :=
  (List.range count).map fun j => (slotWord buffer (2 * j), slotWord buffer (2 * j + 1))

/-- The image after a commit's words are applied, all at one event (R11, R12). -/
def Image.commitWords (im : Image) (op : WriteOp) (region : Region) (first count : Nat) (buffer : List Word) :
    Image :=
  match op with
  | .write => im.writeWords region first (stagedWords buffer count)
  | .mwrite => im.maskWords region first (stagedPairs buffer count)

/-- The bits of OUT word `w` that a commit writes (R14). -/
def writtenBits (op : WriteOp) (first count : Nat) (buffer : List Word) (w : Nat) : Word :=
  if first ≤ w ∧ w < first + count then
    match op with
    | .write => 0xFFFF
    | .mwrite => slotWord buffer (2 * (w - first)) ||| slotWord buffer (2 * (w - first) + 1)
  else 0

/-- The effects of a commit that passes both checks: the words, the generation, the report to the Output
Supervisor for OUT, the report to the Notice Unit (R11, R12, R14, R15, R21). -/
def State.applyCommit (s : State) (p : Port) (op : WriteOp) (region : Region) (first count : Nat) : State :=
  let buffer := (s.port p).buffer
  let written := { s with image := (s.image.commitWords op region first count buffer).bumpGen }
  let supervised := if region = .out then written.outputCommit p (writtenBits op first count buffer) else written
  supervised.report (.commit region.area first (first + count - 1) p)

/-- The outcome goes back to the port (R102). After a port reset no FIN is formed: the buffer is emptied, the
port is IDLE, and free unless held (R13, R109). -/
def State.commitDone (s : State) (p : Port) (outcome : FinOutcome) (gen : Gen) (detail : Byte) : State :=
  let ps := s.port p
  match ps.session, ps.transfer with
  | .committing, some t => s.setPort p (ps.finish t outcome gen detail)
  | .committing, none => (s.setPort p { ps with buffer := [], session := .idle }).judge p
  | _, _ => s

/-- The arbiter takes a commit claim (R8 to R15). -/
def State.takeCommit (s : State) (p : Port) (op : WriteOp) (region : Region) (first count : Nat) : State :=
  match commitCheck s.image s.holds p region first count with
  | .ok =>
    let s' := s.applyCommit p op region first count
    s'.commitDone p .ok s'.image.gen 0
  | .held id => s.commitDone p .held 0 id
  | .stale => s.commitDone p .stale 0 0

/-- COMMIT: the arbiter takes the port's commit claim, if it is among the oldest (R7, R8). -/
def execCommit (p : Port) (s : State) : Host.Outcome State Fault Refusal :=
  .next <| s.whenReleased fun s =>
    match takeClaim (Claim.isCommitOf p) s.claims with
    | some (.commit _ op region first count, rest) =>
      { s with claims := rest }.takeCommit p op region first count
    | _ => s

/-! ### SNAPSHOT -/

/-- The copy of a range, all at one event (R18). -/
def State.copyRange (s : State) (area : Area) (edit : Bool) (first count : Nat) : List Word :=
  (List.range count).map fun i => s.areaWord area edit (first + i)

/-- The port takes its snapshot: slots and snapshot generation, RSP ACCEPT, DAT 0 (R18, R90). -/
def PortState.takeSnapshot (ps : PortState) (t : Transfer) (gen : Gen) (words : List Word) : PortState :=
  let t' := { t with snapGen := some gen }
  ({ ps with transfer := some t', buffer := words }.accept t').form (datFrame t' words 0)

/-- SNAPSHOT: the arbiter takes the port's snapshot claim, if it is among the oldest (R7, R18). -/
def execSnapshot (p : Port) (s : State) : Host.Outcome State Fault Refusal :=
  .next <| s.whenReleased fun s =>
    match takeClaim (Claim.isSnapshotOf p) s.claims with
    | some (.snapshot _ area edit first count, rest) =>
      let words := s.copyRange area edit first count
      { s with claims := rest }.modPort p fun ps =>
        match ps.session, ps.transfer with
        | .sending, some t => ps.takeSnapshot t s.image.gen words
        | _, _ => ps
    | _ => s

/-! ### INPUT_UPDATE -/

/-- The update state is judged again when a line's claim has been taken: a held update is handed over (R137). -/
def LineFilter.updateTaken (l : LineFilter) (n : Line) : LineFilter × List Claim :=
  match l.update with
  | .none => (l, [])
  | .waiting => ({ l with update := .none }, [])
  | .waitingHeld => ({ l with update := .waiting }, [.inputUpdate n l.settled])

/-- INPUT_UPDATE: the IN bit takes the level and the Notice Unit is told, with cause 8 (R20, R138). -/
def execInputUpdate (n : Line) (s : State) : Host.Outcome State Fault Refusal :=
  .next <| s.whenReleased fun s =>
    match takeClaim (Claim.isInputOf n) s.claims with
    | some (.inputUpdate _ level, rest) =>
      let s' := { s with claims := rest, image := s.image.setInput n level }.report (.input (n.val / 16))
      s'.applyLine n ((s'.line n).updateTaken n)
    | _ => s

end Sys2Proof.Machine
end

