-- ==== Sys2Proof/Machine/Banks.lean ====
section
/-! DEFINITION. The arbiter taking SWAP and COPY claims: hold check, validation, the exchange of banks. -/

namespace Sys2Proof.Machine

/-- The result of a SWAP or COPY goes back to its port, which ceases to be pending: the RSP is formed and
recorded, unless a port reset has come since (R83, R84, R58). -/
def State.bankDone (s : State) (p : Port) (code : ReplyCode) (detail : List Byte) : State :=
  let ps := s.port p
  match ps.bankRequest with
  | some (.owed request) => (s.setPort p ({ ps with bankRequest := none }.respond request code detail true)).judge p
  | some .orphaned => (s.setPort p { ps with bankRequest := none }).judge p
  | none => s

/-- The first of words 0 to 54 of the edit bank outside its valid values (R50). -/
def Image.firstInvalid (im : Image) : Option Nat :=
  (List.range Config.governing).find? fun i => !prmValid i (im.editWord i)

/-- The PRM indices at which the two banks differ, rising (R53, R55). -/
def Image.differing (im : Image) : List Nat :=
  (List.range 128).filter fun i => im.liveWord i ≠ im.editWord i

/-- The roles of the banks are exchanged and the generation rises (R51). -/
def Image.swapBanks (im : Image) : Image := { im with live := im.live.other, gen := im.gen + 1 }

/-- Every word of the live bank is written into the edit bank, so that the banks become equal, and the
generation rises (R55). -/
def Image.copyBank (im : Image) : Image :=
  (im.setRegion (.prm im.edit) (im.region (.prm im.live))).bumpGen

/-- A port whose notice-enable bit a SWAP clears: an NTC waiting in its slot is taken back and the port
returns to IDLE (R128). -/
def PortState.holdBack (ps : PortState) : PortState :=
  if ps.tx.slot.isSome then ps.takeBack.leaveNotifying else ps

/-- Whether a SWAP turns a port's notice-enable bit from 0 to 1 (R128). -/
def bitRises (former new : Image) (q : Port) : Bool := !former.enables q && new.enables q

/-- Whether a SWAP turns a port's notice-enable bit from 1 to 0 (R128). -/
def bitFalls (former new : Image) (q : Port) : Bool := former.enables q && !new.enables q

/-- A performed SWAP at one port's notices: its report with the items it makes, and the change of the port's
notice-enable bit (R53, R54, R128). Where the bit rises, the report and the decision to send come in either
order (R129): `early` says which. -/
def PortState.swapNotices (ps : PortState) (falls rises early enabled : Bool) (items : List Notice) : PortState :=
  let held := if falls then ps.holdBack else ps
  let sent := if rises && early then held.deliver enabled else held
  let told := sent.notify enabled items
  if rises then told.deliver enabled else told

/-- The field side of a performed SWAP: the exchange of banks and generation, the filters, the groups (R51,
R139, R150). -/
def State.swapField (s : State) : State :=
  ({ s with image := s.image.swapBanks }.inputSwap s.image).outputSwap

/-- A performed SWAP (R51 to R54, R128, R139, R150). The count of choices advances, so that the next SWAP's
free values are others (log entry 9). -/
def State.performSwap (s : State) : State :=
  let new := s.image.swapBanks
  { s.swapField with choices := s.choices + 1 }.mapPorts fun q ps =>
    let rises := bitRises s.image new q
    ps.swapNotices (bitFalls s.image new q) rises (Config.sendBeforeSwapReport s.choices q.val)
      (new.enables q) (changeItems (.swap s.image.differing) new.gen q ps.notice.subs)

/-- SWAP_CLAIM: hold check, validation, then the SWAP (R48 to R54). -/
def execSwapClaim (p : Port) (s : State) : Host.Outcome State Fault Refusal :=
  .next <| s.whenReleased fun s =>
    match takeClaim (Claim.isSwapOf p) s.claims with
    | some (_, rest) =>
      let s' := { s with claims := rest }
      match blockingBanks s.holds p with
      | some id => s'.bankDone p .held (wordBytes (idDetail id))
      | none =>
        match s.image.firstInvalid with
        | some i => s'.bankDone p .invalid (wordBytes (BitVec.ofNat 16 i))
        | none =>
          let s'' := s'.performSwap
          s''.bankDone p .done (genBytes s''.image.gen)
    | none => s

/-- COPY_CLAIM: hold check, then the COPY and its report (R55). -/
def execCopyClaim (p : Port) (s : State) : Host.Outcome State Fault Refusal :=
  .next <| s.whenReleased fun s =>
    match takeClaim (Claim.isCopyOf p) s.claims with
    | some (_, rest) =>
      let s' := { s with claims := rest }
      match blockingBanks s.holds p with
      | some id => s'.bankDone p .held (wordBytes (idDetail id))
      | none =>
        let s'' := { s' with image := s.image.copyBank }.report (.copy s.image.differing)
        s''.bankDone p .done (genBytes s''.image.gen)
    | none => s

end Sys2Proof.Machine
end

