-- ==== Sys2Proof/Machine/Receive.lean ====
section
/-! DEFINITION. The receive lines, breaks and port resets, and the end of a frame on the transmit line. -/

namespace Sys2Proof.Machine

/-- Changes a port's receiver. -/
def PortState.modRx (ps : PortState) (f : Receiver → Receiver) : PortState := { ps with rx := f ps.rx }

/-- The receive line of a port goes to a level, with nothing else (while RESET_N is low no character is
taken, but the level of the line at the release counts, R72). -/
def State.lineTo (s : State) (p : Port) (level : LineLevel) : State :=
  s.modPort p fun ps => ps.modRx fun rx => { rx with line := level }

/-- START_BIT: the character begins, the gap timing ends, and the line is at space from here (R63, R68). In
BREAK, or after a framing error until the line returns to mark, no start bit is looked for (R68, R60). -/
def execStartBit (p : Port) (s : State) : Host.Outcome State Fault Refusal :=
  .next <|
    if s.resetLow then s.lineTo p .space
    else
      s.modPort p fun ps =>
        if ps.held || ps.rx.awaitMark then ps
        else ps.modRx fun rx => { rx with gapTiming := false, inCharacter := true, line := .space }

/-- A good character is taken by the receiver (R62 to R65); a valid frame is handed to the port at the same
event (R67). -/
def State.goodCharacter (s : State) (p : Port) (data : Byte) : State :=
  let taken := (s.port p).rx.assembly.take data
  let s' := s.modPort p fun ps => ps.modRx fun rx => rx.complete taken.1
  match taken.2 with
  | .goesOn => s'
  | .discarded => s'.modPort p fun ps => ps.count Counters.crc
  | .valid kind payload => s'.arrive p kind payload

/-- CHARACTER_RECEIVED: the complete character is examined (R60) and taken. With a framing error the receiver
waits for mark, and the error is taken there (R60, R66). In BREAK, and while the receiver waits for mark,
no character is taken (R68, R60). -/
def execCharacterReceived (p : Port) (data : Byte) (parityBit stopBit : Bool) (s : State) :
    Host.Outcome State Fault Refusal :=
  .next <|
    if s.resetLow then s.lineTo p (if stopBit then .mark else .space)
    else if (s.port p).held || (s.port p).rx.awaitMark then s
    else
      match charKind s.parity data parityBit stopBit with
      | .good => s.goodCharacter p data
      | .parityError => s.modPort p PortState.charError
      | .framingError =>
        s.modPort p fun ps => ps.modRx fun rx =>
          { rx with gapTiming := false, inCharacter := false, awaitMark := true, line := .space }

/-- FRAMING_ERROR: the framing error is taken at the line's return to mark, provided no break has been
detected first (R60, R66). -/
def execFramingError (p : Port) (s : State) : Host.Outcome State Fault Refusal :=
  .next <|
    if s.resetLow then s.lineTo p .mark
    else s.modPort p fun ps => if ps.held then ps else ps.charError

/-- GAP_LIMIT_EXPIRY: the frame in assembly is discarded and counted; taken while the pause is timed (R63). -/
def execGapLimitExpiry (p : Port) (s : State) : Host.Outcome State Fault Refusal :=
  .next <| s.whenReleased fun s =>
    s.modPort p fun ps =>
      if ps.rx.gapTiming && ps.rx.assembly.active then
        { ps with rx := ps.rx.drop }.count Counters.gap
      else ps

/-- The port reset at the session controller (R109): the record emptied, both timers stopped. A commit handed
over is still taken: the port stays COMMITTING with its staged data. A SWAP or COPY handed over is still
taken: the port stays pending, with no reply owed. Any other session ends. -/
def PortState.resetSession (ps : PortState) : PortState :=
  let closing := ps.transfer.any Transfer.closing
  let keeps := ps.session = .committing && !closing
  { ps with
    record := none
    tSeg := none
    tAck := none
    transfer := none
    session := if keeps then .committing else .idle
    buffer := if keeps then ps.buffer else []
    bankRequest := ps.bankRequest.map fun _ => .orphaned }

/-- The port reset in the port's own blocks: receiver in BREAK (R68), transmitter cut and emptied (R69),
session (R109), notice state cleared (R130); the counters stay (R158). -/
def PortState.portReset (ps : PortState) : PortState :=
  { ps.resetSession with
    rx := { assembly := .brk, gapTiming := false, inCharacter := false, awaitMark := false, line := .space }
    tx := Transmitter.reset
    notice := NoticeState.reset }

/-- BREAK_DETECTED: a port reset is taken (R68, R69), with the waiting snapshot claim withdrawn (R19) and the
port's holds removed (R36). In BREAK no further break is detected (R68). -/
def execBreakDetected (p : Port) (s : State) : Host.Outcome State Fault Refusal :=
  .next <| s.whenReleased fun s =>
    if (s.port p).held then s
    else ((s.modPort p PortState.portReset).withdrawSnapshot p).removeHoldsOf p

/-- BREAK_END: the line returns to mark, the port reset ends and the receiver hunts (R68); the transmitter begins the
next frame waiting (R69), and a port that becomes free sends what its queue holds (R109, R130). -/
def execBreakEnd (p : Port) (s : State) : Host.Outcome State Fault Refusal :=
  .next <|
    if s.resetLow then s.lineTo p .mark
    else if (s.port p).held then
      (s.modPort p fun ps => (ps.modRx fun _ => Receiver.reset .mark).pump).judge p
    else s

/-- A frame's producer is told that it is sent (R70). -/
def PortState.reportSent (ps : PortState) (f : TxFrame) (noticeWait : Nat) : PortState :=
  if f.origin = .notice then ps.reportNotice noticeWait else ps.reportSession f

/-- The frame in progress is sent and reported (R70, R97, R103, R123), and the transmitter, free again, begins the next
frame waiting (R70). -/
def PortState.frameSent (ps : PortState) (noticeWait : Nat) : PortState :=
  match ps.tx.sending with
  | some f => ({ ps with tx := { ps.tx with sending := none } }.reportSent f.frame noticeWait).pump
  | none => ps

/-- FRAME_SENT: the frame in progress is sent, or one that waited for a free transmitter, which then had begun it (log
entry 21); a port that becomes free judges delivery (R78, R121). Word 52 is taken at this report (R123, log entry 20).
With no frame at all it has no effect (log entry 4). -/
def execFrameSent (p : Port) (s : State) : Host.Outcome State Fault Refusal :=
  .next <| s.whenReleased fun s =>
    let ps := (s.port p).pump
    if ps.tx.sending.isSome then (s.setPort p (ps.frameSent (s.image.liveWord 52).toNat)).judge p else s

end Sys2Proof.Machine
end

