-- ==== Sys2Proof/Machine/Reset.lean ====
section
/-! DEFINITION. RESET_N: what its fall stops and what its release sets. -/

namespace Sys2Proof.Machine

/-- A port while RESET_N is low (R72, R110): the frames being received and sent are abandoned uncounted, the
transfer and any claim with it, no timer runs. -/
def PortState.stopped (ps : PortState) : PortState :=
  { ps with
    rx := Receiver.reset ps.rx.line
    tx := Transmitter.reset
    session := .idle
    transfer := none
    bankRequest := none
    tSeg := none
    tAck := none
    buffer := []
    notice := { ps.notice with tNtc := none } }

/-- RESET_N_ASSERT: waiting claims are abandoned (R6), the holds are gone (R27), every output line is driven
low and no refresh timer runs (R153), no measurement runs (R140), the ports stop (R72, R110). What the
release sets is left as it stands until then (log entry 7). -/
def execResetNAssert (s : State) : Host.Outcome State Fault Refusal :=
  .next
    { s with
      resetLow := true
      claims := []
      holds := []
      ports := Vector.ofFn fun p => (s.port p).stopped
      lines := Vector.ofFn fun n => { s.line n with measuring := none }
      groups := Vector.ofFn fun g => { s.group g with timer := none }
      driven := Vector.replicate 32 false }

/-- RESET_N_RELEASE: everything takes its power-on value (R6, R27, R42, R72, R110, R131, R140, R153, R158), the
straps are sampled (R59), the external lines are at their levels (R72, R140). -/
def execResetNRelease (rate : BitVec 3) (par : Bool) (s : State) : Host.Outcome State Fault Refusal :=
  .next
    { State.reset with
      rateCode := rate
      parity := par
      ports := Vector.ofFn fun p => PortState.reset (s.port p).rx.line
      lines := Vector.ofFn fun n => LineFilter.reset (s.line n).level
      pending := s.pending
      choices := s.choices }

end Sys2Proof.Machine
end

