-- ==== Sys2Proof/Machine/Dispatch.lean ====
section
/-! DEFINITION. The meaning of each command: one arm for each constructor. -/

namespace Sys2Proof.Machine

/-- The effect of a command on everything but the queue. -/
def exec (i : Instr) (s : State) : Host.Outcome State Fault Refusal :=
  match i with
  | .resetNAssert => Sys2Proof.Machine.execResetNAssert s
  | .resetNRelease rate par => Sys2Proof.Machine.execResetNRelease rate par s
  | .characterReceived p data parityBit stopBit => Sys2Proof.Machine.execCharacterReceived p data parityBit stopBit s
  | .framingError p => Sys2Proof.Machine.execFramingError p s
  | .gapLimitExpiry p => Sys2Proof.Machine.execGapLimitExpiry p s
  | .breakDetected p => Sys2Proof.Machine.execBreakDetected p s
  | .breakEnd p => Sys2Proof.Machine.execBreakEnd p s
  | .frameSent p => Sys2Proof.Machine.execFrameSent p s
  | .read p tag area flags first count => Sys2Proof.Machine.execRead p tag area flags first count s
  | .write p tag area flags first count => Sys2Proof.Machine.execWrite p tag area flags first count s
  | .mwrite p tag area flags first count => Sys2Proof.Machine.execMwrite p tag area flags first count s
  | .hold p tag area first count lease => Sys2Proof.Machine.execHold p tag area first count lease s
  | .release p tag holdId => Sys2Proof.Machine.execRelease p tag holdId s
  | .renew p tag holdId lease => Sys2Proof.Machine.execRenew p tag holdId lease s
  | .subscribe p tag area flags first count => Sys2Proof.Machine.execSubscribe p tag area flags first count s
  | .unsubscribe p tag subId => Sys2Proof.Machine.execUnsubscribe p tag subId s
  | .swap p tag => Sys2Proof.Machine.execSwap p tag s
  | .copy p tag => Sys2Proof.Machine.execCopy p tag s
  | .ping p tag => Sys2Proof.Machine.execPing p tag s
  | .badOperation p tag op fields => Sys2Proof.Machine.execBadOperation p tag op fields s
  | .dat p payload => Sys2Proof.Machine.execDat p payload s
  | .ack p payload => Sys2Proof.Machine.execAck p payload s
  | .nak p payload => Sys2Proof.Machine.execNak p payload s
  | .abt p payload => Sys2Proof.Machine.execAbt p payload s
  | .nta p payload => Sys2Proof.Machine.execNta p payload s
  | .tSegExpiry p => Sys2Proof.Machine.execTSegExpiry p s
  | .tAckExpiry p => Sys2Proof.Machine.execTAckExpiry p s
  | .tNtcExpiry p => Sys2Proof.Machine.execTNtcExpiry p s
  | .leaseExpiry holdId => Sys2Proof.Machine.execLeaseExpiry holdId s
  | .refreshTimerExpiry g => Sys2Proof.Machine.execRefreshTimerExpiry g s
  | .inputTransition n level => Sys2Proof.Machine.execInputTransition n level s
  | .measurementExpiry n => Sys2Proof.Machine.execMeasurementExpiry n s
  | .commit p => Sys2Proof.Machine.execCommit p s
  | .snapshot p => Sys2Proof.Machine.execSnapshot p s
  | .inputUpdate n => Sys2Proof.Machine.execInputUpdate n s
  | .swapClaim p => Sys2Proof.Machine.execSwapClaim p s
  | .copyClaim p => Sys2Proof.Machine.execCopyClaim p s
  | .startBit p => Sys2Proof.Machine.execStartBit p s

end Sys2Proof.Machine
end

