-- ==== Sys2Proof/Machine/Time.lean ====
section
/-! DEFINITION. Time: what waits for a free transmitter is begun (log entry 21), an expiry that is due is taken, or one
millisecond passes (log entries 1 and 3). -/

namespace Sys2Proof.Machine

/-- Every transmitter that is free begins the next frame waiting (R70). -/
def State.beginFrames (s : State) : State := s.mapPorts fun _ ps => ps.pump

/-- While RESET_N is high, a frame waits for a free transmitter. -/
def State.waitsToBegin (s : State) : Bool := !s.resetLow && allPorts.any fun p => (s.port p).waitsToBegin

/-- What is left of a running timer after one more millisecond, not below 0. -/
def countDown (timer : Option Nat) : Option Nat := timer.map fun left => left - 1

/-- A port's timers (R77, R121). -/
def PortState.tick (ps : PortState) : PortState :=
  { ps with
    tSeg := countDown ps.tSeg
    tAck := countDown ps.tAck
    notice := { ps.notice with tNtc := countDown ps.notice.tNtc } }

/-- A line's held time, up to its filter time (R133). -/
def LineFilter.tick (l : LineFilter) (f : Nat) : LineFilter :=
  { l with measuring := l.measuring.map fun m => { m with held := if m.held < f then m.held + 1 else m.held } }

/-- One millisecond passes: every running timer, lease and measurement counts; none runs while RESET_N is low
(log entry 1). -/
def State.tick (s : State) : State :=
  s.whenReleased fun s =>
    { s with
      holds := s.holds.map fun h => { h with lease := h.lease - 1 }
      ports := Vector.ofFn fun p => (s.port p).tick
      lines := Vector.ofFn fun n => (s.line n).tick (s.image.filterTime n)
      groups := Vector.ofFn fun g => { s.group g with timer := countDown (s.group g).timer } }

/-- A wait of a port that has run out, as the row of its expiry. -/
def PortState.dueExpiry (ps : PortState) (p : Port) : Option Instr :=
  if ps.segDue.isSome then some (.tSegExpiry p)
  else if ps.ackDue.isSome then some (.tAckExpiry p)
  else if ps.noticeDue.isSome then some (.tNtcExpiry p)
  else none

/-- An expiry that is due, if any: each is taken before another millisecond passes (R34, R91, R97, R123, R136, R144).
Of several the ports' come first, then a lease's, a line's, a group's (log entry 3). -/
def State.dueExpiry (s : State) : Option Instr :=
  if s.resetLow then none
  else
    (allPorts.findSome? fun p => (s.port p).dueExpiry p) <|>
      ((s.holds.find? Hold.runOut).map fun h => .leaseExpiry h.id) <|>
      ((allLines.find? fun n => ((s.line n).due (s.image.filterTime n)).isSome).map Instr.measurementExpiry) <|>
      ((allGroups.find? fun g => (s.group g).due).map Instr.refreshTimerExpiry)

end Sys2Proof.Machine
end

