-- ==== Sys2Proof/Machine/Step.lean ====
section
/-! DEFINITION. One step: the command at the front of the queue, or what time does on an empty queue. -/

namespace Sys2Proof.Machine

/-- The command at the front of the queue acts on the part with the queue's rest. On an empty queue a frame that waits for
a free transmitter is begun (log entry 21); if none waits, an expiry that is due is taken, and if none is due a
millisecond passes (log entries 1 and 3). -/
def step (s : State) : Host.Outcome State Fault Refusal :=
  match s.pending with
  | c :: rest => exec c { s with pending := rest }
  | [] =>
    if s.waitsToBegin then .next s.beginFrames
    else
      match s.dueExpiry with
      | some c => exec c s
      | none => .next s.tick

/-- Puts the command that a word spells at the front of the queue; where it spells none, and no word of this
part's table spells one, the state is unchanged. -/
def State.withFetchWord (s : State) (nbits w : Nat) : State :=
  match decodeTableWord nbits w with
  | some c => { s with pending := c :: s.pending }
  | none => s

end Sys2Proof.Machine
end

