-- ==== Sys2Proof/Safety.lean ====
section
/-! DEFINITION. The terms that claims about the part use: frames at a port, what a port is ready for, what a
step leaves as it was, a run of characters, and the invariants of the part. -/

namespace Sys2Proof.Machine

/-! ### Frames at a port -/

/-- The frames that a transmitter has begun or still has to send, the notice slot aside: the frame in
progress, then the session frame queue. -/
def Transmitter.frames (tx : Transmitter) : List TxFrame :=
  (tx.sending.map Sending.frame).toList ++ tx.queue

/-- Those frames once `f` has joined the queue: with 4 frames in the queue its oldest is removed (R71). -/
def Transmitter.joined (tx : Transmitter) (f : TxFrame) : List TxFrame :=
  (tx.sending.map Sending.frame).toList ++ (if tx.queue.length < 4 then tx.queue else tx.queue.tail) ++ [f]

/-- No FIN of an open transfer waits in the queue; so it is until the transfer is closing. -/
abbrev Transmitter.noFin (tx : Transmitter) : Prop := ∀ f ∈ tx.queue, f.origin ≠ .closing

/-- A frame waits for a transmitter that is free: none is in progress, and the port is not held (R70). -/
abbrev FrameWaits (ps : PortState) : Prop :=
  ps.tx.sending = none ∧ ps.rx.assembly ≠ .brk ∧ (ps.tx.queue ≠ [] ∨ ps.tx.slot ≠ none)

/-- A free transmitter has begun the next frame waiting: the oldest session frame, else the NTC in the slot (R70). -/
abbrev Begins (a b : PortState) : Prop :=
  let inProgress (f : TxFrame) : Option Sending := some { frame := f, wire := frameBytes f.kind.code f.payload }
  b = { a with tx := b.tx } ∧
    (∀ f rest, a.tx.queue = f :: rest → b.tx = { a.tx with sending := inProgress f, queue := rest }) ∧
    ∀ f, a.tx.queue = [] → a.tx.slot = some f → b.tx = { sending := inProgress f, queue := [], slot := none }

/-- An RSP frame: the tag of its request, the code, the detail (R75). -/
def rspFrame (request : List Byte) (code : Byte) (detail : List Byte) : TxFrame :=
  { kind := .rsp, payload := tagOf request :: code :: detail, origin := .reply }

/-- The FIN of an open transfer: tag, outcome, generation, detail (R75). -/
def finFrame (tag outcome : Byte) (gen : Gen) (detail : Byte) : TxFrame :=
  { kind := .fin, payload := [tag, outcome] ++ genBytes gen ++ [detail], origin := .closing }

/-- The DAT of segment `n` of a read with these words in its Transfer Buffer (R75, R87). -/
def readFrame (tag : Byte) (n : Nat) (buffer : List Word) : TxFrame :=
  { kind := .dat
    payload := tag :: BitVec.ofNat 8 n :: ((buffer.drop (32 * n)).take 32).flatMap wordBytes
    origin := .segment n }

/-- The port, kind and payload of a row that is the arrival of a frame. -/
def frameOf : Instr → Option (Port × MasterKind × List Byte)
  | .read p tag area flags first count => some (p, .req, (Request.read area flags first count).payload tag)
  | .write p tag area flags first count => some (p, .req, (Request.write area flags first count).payload tag)
  | .mwrite p tag area flags first count => some (p, .req, (Request.mwrite area flags first count).payload tag)
  | .hold p tag area first count lease => some (p, .req, (Request.hold area first count lease).payload tag)
  | .release p tag holdId => some (p, .req, (Request.release holdId).payload tag)
  | .renew p tag holdId lease => some (p, .req, (Request.renew holdId lease).payload tag)
  | .subscribe p tag area flags first count =>
    some (p, .req, (Request.subscribe area flags first count).payload tag)
  | .unsubscribe p tag subId => some (p, .req, (Request.unsubscribe subId).payload tag)
  | .swap p tag => some (p, .req, Request.swap.payload tag)
  | .copy p tag => some (p, .req, Request.copy.payload tag)
  | .ping p tag => some (p, .req, Request.ping.payload tag)
  | .badOperation p tag op fields => some (p, .req, tag :: op :: fields)
  | .dat p payload => some (p, .dat, payload)
  | .ack p payload => some (p, .ack, payload)
  | .nak p payload => some (p, .nak, payload)
  | .abt p payload => some (p, .abt, payload)
  | .nta p payload => some (p, .nta, payload)
  | _ => none

/-- The row and the request payload of a READ, WRITE or MWRITE. -/
def TransferOp.row (op : TransferOp) (p : Port) (tag area flags : Byte) (first count : Word) : Instr :=
  match op with
  | .read => .read p tag area flags first count
  | .write => .write p tag area flags first count
  | .mwrite => .mwrite p tag area flags first count

/-- The REQ payload of a READ, WRITE or MWRITE (R74). -/
def TransferOp.request (op : TransferOp) (tag area flags : Byte) (first count : Word) : List Byte :=
  match op with
  | .read => (Request.read area flags first count).payload tag
  | .write => (Request.write area flags first count).payload tag
  | .mwrite => (Request.mwrite area flags first count).payload tag

/-- The KIND byte of a master kind (R73). -/
def MasterKind.code : MasterKind → Byte
  | .req => 0x52
  | .dat => 0x44
  | .ack => 0x41
  | .nak => 0x4B
  | .abt => 0x58
  | .nta => 0x43

/-- The characters of a frame on port `p`, each with its parity right and its stop bit at mark. -/
def characters (p : Port) (kind : MasterKind) (payload : List Byte) : List Instr :=
  (frameBytes kind.code payload).map fun b => .characterReceived p b (parityOf b) true

/-- Commands one after another, up to the first that does not answer next. -/
def execAll : List Instr → State → Host.Outcome State Fault Refusal
  | [], s => .next s
  | i :: is, s =>
    match exec i s with
    | .next t => execAll is t
    | .fault r => .fault r
    | .refused r => .refused r

/-! ### What a port is ready for -/

/-- Frames and characters reach port `p`: RESET_N is high and the port is not held (R68, R72). -/
abbrev Listens (s : State) (p : Port) : Prop := s.resetLow = false ∧ (s.port p).rx.assembly ≠ .brk

/-- IDLE or NOTIFYING and not pending: no transfer is open (R77, R78). -/
abbrev AtRest (ps : PortState) : Prop :=
  (ps.session = .idle ∨ ps.session = .notifying) ∧ ps.transfer = none ∧ ps.bankRequest = none

/-- Port `p` is ready to perform a request: it is at rest, the tag is not 0 and the request is not the recorded
one (R80, steps 1 to 3). -/
abbrev Performs (s : State) (p : Port) (request : List Byte) : Prop :=
  Listens s p ∧ AtRest (s.port p) ∧ tagOf request ≠ 0 ∧ ∀ x ∈ (s.port p).record, x.request ≠ request

/-- The transfer `t` is open on port `p`, in `session`, and not closing. -/
abbrev Open (s : State) (p : Port) (session : SessionState) (t : Transfer) : Prop :=
  Listens s p ∧ (s.port p).session = session ∧ (s.port p).transfer = some t ∧ t.closing = false ∧
    (s.port p).tx.noFin

/-- The region that a WRITE or MWRITE commits to (R8): for PRM its target bank. -/
def Transfer.commitRegion (t : Transfer) : Option Region :=
  match t.area, t.target with
  | .out, _ => some .out
  | .wrd, _ => some .wrd
  | .prm, some b => some (.prm b)
  | _, _ => none

/-- A hold and a range have an index in common (R25). -/
abbrev Hold.meets (h : Hold) (area : Area) (first count : Nat) : Prop :=
  h.area = area ∧ h.first < first + count ∧ first ≤ h.last

/-- The lowest id among the entries for which `blocks` holds. -/
abbrev LowestId (holds : List Hold) (blocks : Hold → Prop) (id : Byte) : Prop :=
  (∃ h ∈ holds, blocks h ∧ h.id = id) ∧ ∀ h ∈ holds, blocks h → id.toNat ≤ h.id.toNat

/-- `k` places after hold id `i`, going from 255 to 1 (R26). -/
def idAfter (i : Byte) (k : Nat) : Nat := (i.toNat - 1 + k) % 255 + 1

/-- The arbiter's next claim of one event may be `c`: it stands among the claims that arrived first (R7). -/
abbrev Oldest (s : State) (c : Claim) (before after : List Claim) (later : List (List Claim)) : Prop :=
  s.claims = (before ++ c :: after) :: later

/-- The claims that still wait once `c` is taken from among the oldest. -/
def claimsLeft (before after : List Claim) (later : List (List Claim)) : List (List Claim) :=
  if (before ++ after).isEmpty then later else (before ++ after) :: later

/-! ### Expiries -/

/-- The six rows that are the expiry of a wait, lease, refresh timer or measurement counted in milliseconds. -/
def isExpiry : Instr → Bool
  | .tSegExpiry _ => true
  | .tAckExpiry _ => true
  | .tNtcExpiry _ => true
  | .leaseExpiry _ => true
  | .refreshTimerExpiry _ => true
  | .measurementExpiry _ => true
  | _ => false

/-- An expiry is due: its timer runs, in the state its rule names, and nothing is left of it (R34, R91, R97, R123,
R136, R144). -/
def Due (s : State) : Instr → Prop
  | .tSegExpiry p =>
    (s.port p).session = .receiving ∧ (s.port p).transfer.isSome = true ∧ (s.port p).tSeg = some 0
  | .tAckExpiry p =>
    (s.port p).session = .sending ∧ (s.port p).transfer.isSome = true ∧ (s.port p).tAck = some 0
  | .tNtcExpiry p =>
    (s.port p).session = .notifying ∧ (s.port p).notice.outstanding.isSome = true ∧
      (s.port p).notice.tNtc = some 0
  | .leaseExpiry id => ∃ h ∈ s.holds, h.id = id ∧ h.lease = 0
  | .refreshTimerExpiry g => (s.group g).mode = .armed ∧ (s.group g).timer = some 0
  | .measurementExpiry n => ∃ m, (s.line n).measuring = some m ∧ (s.image.liveWord n.val).toNat ≤ m.held
  | _ => False

/-! ### What a step leaves as it was -/

/-- A step touches port `p` alone: no other port, and nothing outside the ports. -/
abbrev OnlyPort (s t : State) (p : Port) : Prop :=
  t = { s with ports := t.ports } ∧ ∀ q, q ≠ p → t.port q = s.port q

/-- An entry without what its first transmission fixes. -/
def Notice.entry (e : Notice) : Notice := { e with sent := none }

/-- No subscription, entry or lost count of a port has changed; delivery may have sent the head entry. -/
abbrev SameNotices (a b : NoticeState) : Prop :=
  b.subs = a.subs ∧ b.lost = a.lost ∧ b.queue.map Notice.entry = a.queue.map Notice.entry

/-- All of a port is as it was but its transmitter, its record and its notice delivery, and it is at rest. -/
abbrev OnlyAnswers (a b : PortState) : Prop :=
  b = { a with tx := b.tx, record := b.record, session := b.session, notice := b.notice } ∧
    SameNotices a.notice b.notice ∧ (b.session = .idle ∨ b.session = .notifying)

/-- A final reply has been formed: its frame has joined the queue and it is the last exchange record (R84). -/
abbrev AnswersFinal (a b : PortState) (request : List Byte) (code : Byte) (detail : List Byte) : Prop :=
  b.tx.frames = a.tx.joined (rspFrame request code detail) ∧
    b.record = some { request := request, replyKind := .rsp, reply := tagOf request :: code :: detail } ∧
    OnlyAnswers a b

/-- A reply that is not final has been formed: the record stays (R84). -/
abbrev AnswersPlain (a b : PortState) (f : TxFrame) : Prop :=
  b.tx.frames = a.tx.joined f ∧ b.record = a.record ∧ OnlyAnswers a b

/-- A frame is dropped: the paused flag is cleared, and delivery sends the head entry if the port is free and its bit
is 1; nothing else of the port changes (R79, R127). -/
abbrev Drops (enabled : Bool) (a b : PortState) : Prop :=
  b = { a with tx := b.tx, session := b.session, notice := b.notice } ∧ SameNotices a.notice b.notice ∧
    b.notice.paused = false ∧ b.notice.tNtc = a.notice.tNtc ∧ b.tx = { a.tx with slot := b.tx.slot } ∧
    (enabled = false ∨ a.free = false ∨ a.notice.queue = [] →
      b = { a with notice := { a.notice with paused := false } }) ∧
    (enabled = true → a.free = true → a.notice.queue ≠ [] → b.session = .notifying)

/-- The result of a SWAP or COPY comes back to its port, which ceases to be pending: the RSP owed to the request is
formed and recorded (R83, R84), and after a port reset none is formed and the record stays (R58). -/
abbrev BankAnswers (a b : PortState) (owed : BankRequest) (code : Byte) (detail : List Byte) : Prop :=
  b = { a with tx := b.tx, record := b.record, session := b.session, bankRequest := none, notice := b.notice } ∧
    (b.session = .idle ∨ b.session = .notifying) ∧
    (∀ request, owed = .owed request →
      b.tx.frames = a.tx.joined (rspFrame request code detail) ∧
      b.record = some { request := request, replyKind := .rsp, reply := tagOf request :: code :: detail }) ∧
    (owed = .orphaned → b.record = a.record ∧ b.tx = { a.tx with slot := b.tx.slot })

/-- The request is refused with a code and a detail word, and nothing else changes (R31, R86). -/
abbrev Refused (s t : State) (p : Port) (request : List Byte) (code : Byte) (detail : Word) : Prop :=
  AnswersFinal (s.port p) (t.port p) request code (wordBytes detail) ∧ OnlyPort s t p

/-- An item joins a port's queue, or is counted lost when 8 entries stand (R119). -/
abbrev Queued (a b : NoticeState) (item : Notice) : Prop :=
  b.subs = a.subs ∧
    if a.queue.length < 8 then b.queue.map Notice.entry = a.queue.map Notice.entry ++ [item] ∧ b.lost = a.lost
    else b.queue.map Notice.entry = a.queue.map Notice.entry ∧ b.lost.toNat = min 255 (a.lost.toNat + 1)

/-- An item reaches a port: with its bit at 1 it is queued, with its bit at 0 nothing is made (R117). Delivery may
send the head. -/
abbrev Told (enabled : Bool) (a b : PortState) (item : Notice) : Prop :=
  if enabled then
    b = { a with tx := { a.tx with slot := b.tx.slot }, session := b.session, notice := b.notice } ∧
      Queued a.notice b.notice item
  else b = a

/-- The items of one report have been placed in a port's queue one after another, as R119 says; delivery may have sent
the head. -/
abbrev Receives (a b : NoticeState) (items : List Notice) : Prop :=
  b.subs = a.subs ∧ b.lost = (items.foldl NoticeState.place a).lost ∧
    b.queue.map Notice.entry = (items.foldl NoticeState.place a).queue.map Notice.entry

/-! ### Invariants -/

/-- Every stored area is in canonical form (log entry 16), and words 0 to 54 of the live bank hold valid values
(R43, R45); words 48 and 49 admit any value. -/
abbrev ImageSound (s : State) : Prop :=
  s.image.wf = true ∧ (∀ i < 32, (s.image.liveWord i).toNat ≤ 255) ∧
    (∀ i < 8, (s.image.liveWord (32 + i)).toNat ≤ 3 ∨ (s.image.liveWord (32 + i)).toNat = 15) ∧
    (∀ i < 8, (s.image.liveWord (40 + i)).toNat ≤ 255) ∧
    (∀ i < 2, 50 ≤ (s.image.liveWord (50 + i)).toNat ∧ (s.image.liveWord (50 + i)).toNat ≤ 10000) ∧
    20 ≤ (s.image.liveWord 52).toNat ∧ (s.image.liveWord 52).toNat ≤ 5000 ∧
    (s.image.liveWord 53).toNat ≤ 7 ∧ (s.image.liveWord 54).toNat ≤ 15

/-- The Hold Table keeps its limits (R23, R24), and the next-id counter names an id no entry uses (R26). -/
abbrev HoldsSound (s : State) : Prop :=
  s.holds.length ≤ 16 ∧ (∀ p, (s.holds.filter fun h => h.owner = p).length ≤ 8) ∧
    (s.holds.Pairwise fun a b => a.id ≠ b.id ∧ ¬(a.area = b.area ∧ a.first ≤ b.last ∧ b.first ≤ a.last)) ∧
    (∀ h ∈ s.holds, h.id ≠ 0 ∧ (h.area = .out ∨ h.area = .wrd ∨ h.area = .prm) ∧ h.first ≤ h.last ∧
      h.last < h.area.size ∧ h.lease ≤ 60000) ∧
    s.nextId ≠ 0 ∧ ∀ h ∈ s.holds, h.id ≠ s.nextId

/-- A port's session frame queue holds at most 4 frames (R71), and what is on the line is the frame in progress
from LEAD to its CRC (R61, R70). -/
abbrev PortState.framesSound (ps : PortState) : Prop :=
  ps.tx.queue.length ≤ 4 ∧
    ∀ f ∈ ps.tx.sending, f.wire = frameBytes f.frame.kind.code f.frame.payload

/-- The transmitters of all ports are sound. -/
abbrev FramesSound (s : State) : Prop := ∀ p, (s.port p).framesSound

/-- A port's notice queue is as R118 says: at most 8 entries, at most one unsent CHANGE of each subscription,
and none but the head sent. A port in NOTIFYING has a notice outstanding and no transfer open (R77), and T_ntc
or a waiting NTC is there only in NOTIFYING (R121, R123). -/
abbrev PortState.noticesSound (ps : PortState) : Prop :=
  ps.notice.queue.length ≤ 8 ∧ (∀ e ∈ ps.notice.queue.tail, e.sent = none) ∧
    (ps.notice.queue.Pairwise fun a b =>
      ¬(a.kind = .change ∧ b.kind = .change ∧ a.sent = none ∧ b.sent = none ∧ a.refId = b.refId)) ∧
    (ps.session = .notifying → ps.notice.outstanding.isSome = true) ∧
    (ps.session = .idle ∨ ps.session = .notifying → ps.transfer = none) ∧
    (ps.notice.tNtc.isSome = true → ps.session = .notifying ∧ ps.tx.slot = none) ∧
    (ps.tx.slot.isSome = true → ps.session = .notifying)

/-- The notices of all ports are sound. -/
abbrev NoticesSound (s : State) : Prop := ∀ p, (s.port p).noticesSound

/-- The port that a claim comes from, if it comes from a port (R7). -/
def Claim.port : Claim → Option Port
  | .commit p _ _ _ _ => some p
  | .snapshot p _ _ _ _ => some p
  | .swap p => some p
  | .copy p => some p
  | .inputUpdate _ _ => none

/-- The claims of a port that wait, oldest first. -/
def State.claimsOf (s : State) (p : Port) : List Claim := s.claims.flatten.filter fun c => c.port = some p

/-- A commit claim that names the IN area: there is none, since IN admits no write (R4). -/
def Claim.writesInputs : Claim → Bool
  | .commit _ _ region _ _ => region = .inp
  | _ => false

/-- The claims of an input line that wait, oldest first. -/
def State.lineClaims (s : State) (n : Line) : List Claim := s.claims.flatten.filter (Claim.isInputOf n)

/-- The claims of a port are those its session stands waiting for, at most one (R7, R78, R90, R101, R109). -/
abbrev ClaimsFit (ps : PortState) (p : Port) (claims : List Claim) : Prop :=
  (ps.bankRequest.isSome = true → ps.session = .idle ∧ (claims = [.swap p] ∨ claims = [.copy p])) ∧
    (ps.bankRequest = none →
      (ps.session = .idle ∨ ps.session = .notifying ∨ ps.session = .receiving → claims = []) ∧
      (ps.session = .sending →
        ps.transfer.isSome = true ∧
          ∀ t ∈ ps.transfer,
            claims = if t.snapGen = none then [.snapshot p t.area t.edit t.first t.count] else []) ∧
      (ps.session = .committing →
        if ps.transfer.any Transfer.closing then claims = []
        else claims.length = 1 ∧ claims.all (Claim.isCommitOf p) = true))

/-- A port's claims fit its session (R7), its transfer is open just in RECEIVING, SENDING and COMMITTING (R77),
its Transfer Buffer is empty in IDLE and NOTIFYING (R107), T_seg runs only in RECEIVING (R91), T_ack only in SENDING once
the snapshot is taken (R90, R97), and neither while the transfer is closing (R103). -/
abbrev SessionsSound (s : State) : Prop :=
  (∀ batch ∈ s.claims, batch ≠ []) ∧
    ∀ p,
      ClaimsFit (s.port p) p (s.claimsOf p) ∧
      ((s.port p).session = .idle ∨ (s.port p).session = .notifying →
        (s.port p).transfer = none ∧ (s.port p).buffer = []) ∧
      ((s.port p).session = .receiving → (s.port p).transfer.isSome = true) ∧
      (∀ t ∈ (s.port p).transfer, t.closing = true → t.snapGen = none → (s.port p).session ≠ .sending) ∧
      (∀ t ∈ (s.port p).transfer, t.closing = true → (s.port p).tSeg = none ∧ (s.port p).tAck = none) ∧
      ((s.port p).tSeg.isSome = true → (s.port p).session = .receiving) ∧
      ((s.port p).tAck.isSome = true →
        (s.port p).session = .sending ∧ ((s.port p).transfer.any fun t => t.snapGen.isSome) = true)

/-- While RESET_N is high, for each line: a measurement runs just while the line level differs from the settled
level, towards the line level (R133 to R135); the claims at the arbiter are those of the update state, and the IN
bit stands as R133 says. -/
abbrev InputsSound (s : State) : Prop :=
  s.resetLow = false →
    (∀ batch ∈ s.claims, batch ≠ []) ∧ (∀ batch ∈ s.claims, ∀ c ∈ batch, c.writesInputs = false) ∧
    ∀ n,
      ((s.line n).measuring = none → (s.line n).level = (s.line n).settled) ∧
      (∀ m ∈ (s.line n).measuring,
        m.candidate = (!(s.line n).settled) ∧ (s.line n).level = (!(s.line n).settled) ∧
          1 ≤ s.image.filterTime n ∧ m.held ≤ s.image.filterTime n) ∧
      ((s.line n).update = .none →
        s.lineClaims n = [] ∧ s.image.inputBit n = (s.line n).settled) ∧
      ((s.line n).update = .waiting →
        s.lineClaims n = [.inputUpdate n (s.line n).settled] ∧ s.image.inputBit n = (!(s.line n).settled)) ∧
      ((s.line n).update = .waitingHeld →
        s.lineClaims n = [.inputUpdate n (!(s.line n).settled)] ∧ s.image.inputBit n = (s.line n).settled)

/-- While RESET_N is high, each line shows what R141 says, and each group's record is as R142 says. -/
abbrev OutputsSound (s : State) : Prop :=
  s.resetLow = false →
    (∀ n : Fin 32, s.driven.get n =
      if (s.group (groupOfLine n)).mode = .fallback then
        (s.image.liveWord (48 + n.val / 16)).getLsbD (n.val % 16)
      else (s.image.word .out (n.val / 16)).getLsbD (n.val % 16)) ∧
    ∀ g : Group,
      (s.group g).owner = s.image.liveWord (32 + g.val) ∧ (s.group g).refresh = s.image.liveWord (40 + g.val) ∧
      ((s.group g).mode = .unsupervised ↔
        ¬((s.group g).owner.toNat ≤ 3 ∧ 1 ≤ (s.group g).refresh.toNat ∧ (s.group g).refresh.toNat ≤ 255)) ∧
      ((s.group g).timer.isSome = true ↔ (s.group g).mode = .armed)

end Sys2Proof.Machine
end

