-- ==== Sys2Proof/WellFormed.lean ====
section
/-! DEFINITION. Which commands a link can carry: the checks on operands that their types do not already
make. -/

namespace Sys2Proof

/-- The number of bytes that R74 lays out after the operation code, for each of the operations 1 to 11. -/
def requestFieldBytes : Nat → Option Nat
  | 1 => some 6
  | 2 => some 6
  | 3 => some 6
  | 4 => some 7
  | 5 => some 1
  | 6 => some 3
  | 7 => some 6
  | 8 => some 1
  | 9 => some 0
  | 10 => some 0
  | 11 => some 0
  | _ => none

/-- A payload that a frame can carry: the receiver admits a LEN of at most 130 (R64). -/
def payloadFits (payload : List Byte) : Bool := payload.length ≤ Config.maxLen

/-- A well-formed command. A frame's payload fits a frame, and a BAD_OPERATION is no request of the other
rows: its operation code is not 1 to 11 or its length is not the operation's (R80, steps 4 and 5). -/
def Instr.wellFormed : Instr → Bool
  | .badOperation _ tag op fields =>
    payloadFits (tag :: op :: fields) && requestFieldBytes op.toNat != some fields.length
  | .dat _ payload => payloadFits payload
  | .ack _ payload => payloadFits payload
  | .nak _ payload => payloadFits payload
  | .abt _ payload => payloadFits payload
  | .nta _ payload => payloadFits payload
  | .resetNAssert => true
  | .resetNRelease _ _ => true
  | .characterReceived _ _ _ _ => true
  | .framingError _ => true
  | .gapLimitExpiry _ => true
  | .breakDetected _ => true
  | .breakEnd _ => true
  | .frameSent _ => true
  | .read _ _ _ _ _ _ => true
  | .write _ _ _ _ _ _ => true
  | .mwrite _ _ _ _ _ _ => true
  | .hold _ _ _ _ _ _ => true
  | .release _ _ _ => true
  | .renew _ _ _ _ => true
  | .subscribe _ _ _ _ _ _ => true
  | .unsubscribe _ _ _ => true
  | .swap _ _ => true
  | .copy _ _ => true
  | .ping _ _ => true
  | .tSegExpiry _ => true
  | .tAckExpiry _ => true
  | .tNtcExpiry _ => true
  | .leaseExpiry _ => true
  | .refreshTimerExpiry _ => true
  | .inputTransition _ _ => true
  | .measurementExpiry _ => true
  | .commit _ => true
  | .snapshot _ => true
  | .inputUpdate _ => true
  | .swapClaim _ => true
  | .copyClaim _ => true
  | .startBit _ => true

end Sys2Proof
end

