-- ==== Sys2Proof/Certificates/Slice0/Obligations.lean ====
section
/-! DEFINITION. The statements made about the part, rule by rule. -/

section

open Sys2Proof Sys2Proof.Machine

/-! ### The queue, the clock and the pins -/

/-- A step takes the command at the front of the queue: it is exec of that command with the queue's rest. -/
def Obligations.StepRunsFrontCommand : Prop :=
  ∀ (c : Instr) (rest : List Instr) (s : State),
    s.pending = c :: rest → step s = exec c { s with pending := rest }

/-- On an empty queue, while RESET_N is high, a step begins the frames that wait for a free transmitter; if none waits it
takes an expiry that is due, and if none is due lets one millisecond pass (the model's choice, log entries 1, 3 and 21):
every timer, lease and measurement counts, none below 0, and nothing else changes. While RESET_N is low nothing changes. An
expiry row whose expiry is not due, because its time is not over or its timer was stopped or
started afresh, changes nothing. -/
def Obligations.EmptyQueueLetsTimePass : Prop :=
  (∀ s : State, s.pending = [] →
    (s.resetLow = true → step s = .next s) ∧
    (s.resetLow = false → (∃ p, FrameWaits (s.port p)) →
      ∃ t, step s = .next t ∧ t = { s with ports := t.ports } ∧
        ∀ p, (FrameWaits (s.port p) → Begins (s.port p) (t.port p)) ∧
          (¬FrameWaits (s.port p) → t.port p = s.port p)) ∧
    (s.resetLow = false → (∀ p, ¬FrameWaits (s.port p)) → (∃ c, Due s c) → ∃ c, Due s c ∧ step s = exec c s) ∧
    (s.resetLow = false → (∀ p, ¬FrameWaits (s.port p)) → (∀ c, ¬Due s c) →
      ∃ t, step s = .next t ∧
        t = { s with holds := t.holds, ports := t.ports, lines := t.lines, groups := t.groups } ∧
        t.holds = s.holds.map (fun h => { h with lease := h.lease - 1 }) ∧
        (∀ p, t.port p =
          { s.port p with
            tSeg := (s.port p).tSeg.map (· - 1)
            tAck := (s.port p).tAck.map (· - 1)
            notice := { (s.port p).notice with tNtc := (s.port p).notice.tNtc.map (· - 1) } }) ∧
        (∀ n, t.line n =
          { s.line n with
            measuring := (s.line n).measuring.map fun m =>
              { m with held := if m.held < (s.image.liveWord n.val).toNat then m.held + 1 else m.held } }) ∧
        ∀ g, t.group g = { s.group g with timer := (s.group g).timer.map (· - 1) })) ∧
  ∀ (c : Instr) (s : State), s.resetLow = false → isExpiry c = true → ¬Due s c → exec c s = .next s

/-- RESET_N_ASSERT: the waiting claims and the holds are gone, every output line is driven low, frames being received and sent
are abandoned, no session is open and no timer or measurement runs; counters, image, banks, records, subscriptions and
notice queues are left until the release (log entry 7). While RESET_N is low nothing acts but the two RESET_N rows: every
other command leaves the part as it is, but for the levels of receive lines and input lines, which count at the
release. -/
def Obligations.ResetLowStopsThePart : Prop :=
  (∀ s : State, ∃ t, exec .resetNAssert s = .next t ∧
    t = { s with resetLow := true, claims := [], holds := [], ports := t.ports, lines := t.lines,
                 groups := t.groups, driven := t.driven } ∧
    (∀ n : Fin 32, t.driven.get n = false) ∧
    (∀ n, t.line n = { s.line n with measuring := none }) ∧
    (∀ g, t.group g = { s.group g with timer := none }) ∧
    ∀ p,
      (t.port p).rx.assembly = .hunt ∧ (t.port p).rx.line = (s.port p).rx.line ∧
      (t.port p).tx = { sending := none, queue := [], slot := none } ∧ (t.port p).session = .idle ∧
      (t.port p).transfer = none ∧ (t.port p).bankRequest = none ∧ (t.port p).tSeg = none ∧
      (t.port p).tAck = none ∧ (t.port p).buffer = [] ∧
      (t.port p).notice = { (s.port p).notice with tNtc := none } ∧ (t.port p).record = (s.port p).record ∧
      (t.port p).counters = (s.port p).counters) ∧
  ∀ (c : Instr) (s : State), s.resetLow = true → c ≠ .resetNAssert → (∀ rate par, c ≠ .resetNRelease rate par) →
    ∃ t, exec c s = .next t ∧ t = { s with ports := t.ports, lines := t.lines } ∧
      (∀ p, t.port p = { s.port p with rx := { (s.port p).rx with line := (t.port p).rx.line } }) ∧
      ∀ n, t.line n = { s.line n with level := (t.line n).level }

/-- RESET_N_RELEASE. The image: IN, OUT and WRD hold 0, both banks the defaults, bank 0 is live, the generation is 0, no claim
waits, and the DIA words are those of R161 with the straps at the levels sampled. The blocks: the Hold Table is empty and
its counter 1; every port, transmitter, session and notice state is at its power-on value; every line's filter is settled
at 0 and measures if its level is high; every group is UNSUPERVISED with owner 15 and refresh time 0, every output line
low. -/
def Obligations.ReleaseSetsPowerOnValues : Prop :=
  (∀ (rate : BitVec 3) (par : Bool) (s : State), ∃ t, exec (.resetNRelease rate par) s = .next t ∧
    t.resetLow = false ∧ t.claims = [] ∧ t.image.gen = 0 ∧ t.image.live = .bank0 ∧
    (∀ i, t.image.word .inp i = 0 ∧ t.image.word .out i = 0 ∧ t.image.word .wrd i = 0) ∧
    (∀ b i, t.image.word (.prm b) i =
      if i < 32 then 5 else if i < 40 then 15 else if i < 50 then 0 else if i < 52 then 500 else if i = 52 then 200
      else if i = 53 then 3 else if i = 54 then 15 else 0) ∧
    t.diaWord 0 = 0x4120 ∧ t.diaWord 1 = 0x0103 ∧ t.diaWord 2 = 0 ∧ t.diaWord 3 = 0 ∧ t.diaWord 4 = 0 ∧
    t.diaWord 5 = 0 ∧ t.diaWord 6 = rate.setWidth 16 ∧ t.diaWord 7 = (if par then 1 else 0) ∧
    (∀ i, 8 ≤ i → i < 40 → t.diaWord i = 0)) ∧
  ∀ (rate : BitVec 3) (par : Bool) (s : State), ∃ t, exec (.resetNRelease rate par) s = .next t ∧
    t.rateCode = rate ∧ t.parity = par ∧ t.holds = [] ∧ t.nextId = 1 ∧ t.pending = s.pending ∧
    (∀ p,
      (t.port p).rx.assembly = .hunt ∧ (t.port p).rx.line = (s.port p).rx.line ∧
      (t.port p).tx = { sending := none, queue := [], slot := none } ∧ (t.port p).session = .idle ∧
      (t.port p).transfer = none ∧ (t.port p).bankRequest = none ∧ (t.port p).record = none ∧
      (t.port p).tSeg = none ∧ (t.port p).tAck = none ∧ (t.port p).buffer = [] ∧
      (∀ i, (t.port p).notice.subs.get i = none) ∧ (t.port p).notice.queue = [] ∧
      (t.port p).notice.retry = 0 ∧ (t.port p).notice.paused = false ∧ (t.port p).notice.tNtc = none ∧
      (t.port p).notice.seqCounter = 0 ∧ (t.port p).notice.lost = 0 ∧
      ∀ k, (t.port p).counters.word k = 0) ∧
    (∀ n, t.line n =
      { level := (s.line n).level, settled := false, update := .none
        measuring := if (s.line n).level then some { candidate := true, held := 0 } else none }) ∧
    (∀ g, t.group g = { mode := .unsupervised, owner := 15, refresh := 0, timer := none }) ∧
    ∀ n : Fin 32, t.driven.get n = false

/-- The part right after the release, with its pins at the levels the model chose (log entry 6), satisfies every
invariant stated below. -/
def Obligations.ResetStateIsSound : Prop :=
  ImageSound State.reset ∧ HoldsSound State.reset ∧ FramesSound State.reset ∧ NoticesSound State.reset ∧
    SessionsSound State.reset ∧ InputsSound State.reset ∧ OutputsSound State.reset

/-! ### Characters and frames -/

/-- START_BIT: the gap timing ends, a character is under way and the line is at space; the frame in assembly
stays. In BREAK, or while the receiver waits for mark, no start bit is looked for. -/
def Obligations.StartBitEndsTheGap : Prop :=
  ∀ (p : Port) (s : State), s.resetLow = false →
    ((s.port p).rx.assembly ≠ .brk → (s.port p).rx.awaitMark = false →
      ∃ t, exec (.startBit p) s = .next t ∧ OnlyPort s t p ∧
        t.port p =
          { s.port p with rx := { (s.port p).rx with gapTiming := false, inCharacter := true, line := .space } }) ∧
    ((s.port p).rx.assembly = .brk ∨ (s.port p).rx.awaitMark = true → exec (.startBit p) s = .next s)

/-- A good CHARACTER_RECEIVED moves frame assembly on as R62 and R64 say, in every state: a LEN above 130 discards the frame and
counts it, and the pause is timed just while a frame is in assembly. At the low CRC byte a frame whose CRC differs, or
whose KIND is no master kind, is discarded and counted and reaches nothing (a valid one: FrameBytesBringTheFrame). -/
def Obligations.CharactersMoveAssembly : Prop :=
  (∀ (p : Port) (b : Byte) (parityBit : Bool) (s : State), Listens s p → (s.port p).rx.awaitMark = false →
    (s.parity = true → parityBit = parityOf b) →
    (∀ k n got high, (s.port p).rx.assembly ≠ .check k n got (some high)) →
    ∃ t, exec (.characterReceived p b parityBit true) s = .next t ∧ OnlyPort s t p ∧
      t.port p = { s.port p with rx := (t.port p).rx, counters := (t.port p).counters } ∧
      (t.port p).rx.inCharacter = false ∧ (t.port p).rx.awaitMark = false ∧ (t.port p).rx.line = .mark ∧
      (t.port p).rx.gapTiming = decide ((t.port p).rx.assembly ≠ .hunt) ∧
      ((∀ k, (s.port p).rx.assembly ≠ .length k) → (t.port p).counters = (s.port p).counters) ∧
      ((s.port p).rx.assembly = .hunt → (t.port p).rx.assembly = if b = 0xC3 then .kind else .hunt) ∧
      ((s.port p).rx.assembly = .kind → (t.port p).rx.assembly = .length b) ∧
      (∀ k, (s.port p).rx.assembly = .length k →
        (b.toNat = 0 → (t.port p).rx.assembly = .check k b [] none) ∧
        (1 ≤ b.toNat → b.toNat ≤ 130 → (t.port p).rx.assembly = .payload k b [] b.toNat) ∧
        (130 < b.toNat →
          (t.port p).rx.assembly = .hunt ∧
          (t.port p).counters.crcDiscards.toNat = min 65535 ((s.port p).counters.crcDiscards.toNat + 1)) ∧
        (b.toNat ≤ 130 → (t.port p).counters = (s.port p).counters) ∧
        (t.port p).counters = { (s.port p).counters with crcDiscards := (t.port p).counters.crcDiscards }) ∧
      (∀ k n got due, (s.port p).rx.assembly = .payload k n got due →
        (t.port p).rx.assembly =
          if due ≤ 1 then .check k n (got ++ [b]) none else .payload k n (got ++ [b]) (due - 1)) ∧
      ∀ k n got, (s.port p).rx.assembly = .check k n got none →
        (t.port p).rx.assembly = .check k n got (some b)) ∧
  ∀ (p : Port) (b : Byte) (parityBit : Bool) (s : State) (k n high : Byte) (got : List Byte),
    Listens s p → (s.port p).rx.awaitMark = false → (s.parity = true → parityBit = parityOf b) →
    (s.port p).rx.assembly = .check k n got (some high) →
    (crc16 (k :: n :: got) ≠ wordOf high b ∨ (k ≠ 0x52 ∧ k ≠ 0x44 ∧ k ≠ 0x41 ∧ k ≠ 0x4B ∧ k ≠ 0x58 ∧ k ≠ 0x43)) →
    ∃ t, exec (.characterReceived p b parityBit true) s = .next t ∧ OnlyPort s t p ∧
      t.port p = { s.port p with rx := (t.port p).rx, counters := (t.port p).counters } ∧
      (t.port p).rx = { assembly := .hunt, gapTiming := false, inCharacter := false, awaitMark := false,
                        line := .mark } ∧
      (t.port p).counters = { (s.port p).counters with crcDiscards := (t.port p).counters.crcDiscards } ∧
      (t.port p).counters.crcDiscards.toNat = min 65535 ((s.port p).counters.crcDiscards.toNat + 1)

/-- The characters of a frame, from its LEAD to its low CRC byte, do at a receiver in HUNT just what the arrival of
that frame does: no byte of the kind, the length, the payload or the CRC is lost or read wrong. Those bytes are LEAD, the
code of the kind, LEN, the payload, and the CRC high byte first, and each character's parity bit is 1 for an odd number of
ones. The payload of each request row is the tag, the operation code and the fields of its layout, and so is told apart
from every other by its code. That a frame row is the arrival of the frame is the model's reading (log entry 2). -/
def Obligations.FrameBytesBringTheFrame : Prop :=
  (∀ (i : Instr) (p : Port) (kind : MasterKind) (payload : List Byte) (s : State),
    frameOf i = some (p, kind, payload) → payload.length ≤ 130 → s.resetLow = false →
    (s.port p).rx =
      { assembly := .hunt, gapTiming := false, inCharacter := false, awaitMark := false, line := .mark } →
    execAll (characters p kind payload) s = exec i s) ∧
  (∀ (p : Port) (kind : MasterKind) (payload : List Byte),
    let code : Byte :=
      match kind with | .req => 0x52 | .dat => 0x44 | .ack => 0x41 | .nak => 0x4B | .abt => 0x58 | .nta => 0x43
    let crc := crc16 ([code, BitVec.ofNat 8 payload.length] ++ payload)
    characters p kind payload =
      ([0xC3, code, BitVec.ofNat 8 payload.length] ++ payload ++
        [BitVec.ofNat 8 (crc.toNat / 256), BitVec.ofNat 8 crc.toNat]).map fun b =>
          .characterReceived p b (decide ((List.range 8).countP b.getLsbD % 2 = 1)) true) ∧
  crc16 [0x31, 0x32, 0x33, 0x34, 0x35, 0x36, 0x37, 0x38, 0x39] = 0x29B1 ∧
  ∀ (p : Port) (tag area flags id op : Byte) (first count lease : Word) (bytes : List Byte),
    let two (w : Word) : List Byte := [BitVec.ofNat 8 (w.toNat / 256), BitVec.ofNat 8 w.toNat]
    frameOf (.read p tag area flags first count) =
      some (p, .req, [tag, 1, area, flags] ++ two first ++ two count) ∧
    frameOf (.write p tag area flags first count) =
      some (p, .req, [tag, 2, area, flags] ++ two first ++ two count) ∧
    frameOf (.mwrite p tag area flags first count) =
      some (p, .req, [tag, 3, area, flags] ++ two first ++ two count) ∧
    frameOf (.hold p tag area first count lease) =
      some (p, .req, [tag, 4, area] ++ two first ++ two count ++ two lease) ∧
    frameOf (.release p tag id) = some (p, .req, [tag, 5, id]) ∧
    frameOf (.renew p tag id lease) = some (p, .req, [tag, 6, id] ++ two lease) ∧
    frameOf (.subscribe p tag area flags first count) =
      some (p, .req, [tag, 7, area, flags] ++ two first ++ two count) ∧
    frameOf (.unsubscribe p tag id) = some (p, .req, [tag, 8, id]) ∧
    frameOf (.swap p tag) = some (p, .req, [tag, 9]) ∧ frameOf (.copy p tag) = some (p, .req, [tag, 10]) ∧
    frameOf (.ping p tag) = some (p, .req, [tag, 11]) ∧
    frameOf (.badOperation p tag op bytes) = some (p, .req, [tag, op] ++ bytes) ∧
    frameOf (.dat p bytes) = some (p, .dat, bytes) ∧ frameOf (.ack p bytes) = some (p, .ack, bytes) ∧
    frameOf (.nak p bytes) = some (p, .nak, bytes) ∧ frameOf (.abt p bytes) = some (p, .abt, bytes) ∧
    frameOf (.nta p bytes) = some (p, .nta, bytes)

/-- A character with a parity error discards the frame in assembly at once and counts it (parity strapped); in HUNT it is
skipped uncounted. One whose stop bit is at space only makes the receiver wait for mark. FRAMING_ERROR, at the return to
mark, discards and counts; in HUNT nothing is counted, in BREAK the error is never taken. GAP_LIMIT_EXPIRY, while the
pause within a frame is timed, discards and counts. Every count stays at 65535. The model takes FRAMING_ERROR without
asking for the bad character before it (log entry 5). -/
def Obligations.FaultsDiscardTheFrame : Prop :=
  (∀ (p : Port) (b : Byte) (parityBit : Bool) (s : State), Listens s p → (s.port p).rx.awaitMark = false →
    (s.parity = true → parityBit ≠ parityOf b →
      ∃ t, exec (.characterReceived p b parityBit true) s = .next t ∧ OnlyPort s t p ∧
        t.port p = { s.port p with rx := (t.port p).rx, counters := (t.port p).counters } ∧
        (t.port p).rx.assembly = .hunt ∧ (t.port p).rx.gapTiming = false ∧
        ((s.port p).rx.assembly = .hunt → (t.port p).counters = (s.port p).counters) ∧
        ((s.port p).rx.assembly ≠ .hunt →
          (t.port p).counters = { (s.port p).counters with framingDiscards := (t.port p).counters.framingDiscards } ∧
          (t.port p).counters.framingDiscards.toNat =
            min 65535 ((s.port p).counters.framingDiscards.toNat + 1))) ∧
    ∃ t, exec (.characterReceived p b parityBit false) s = .next t ∧ OnlyPort s t p ∧
      t.port p =
        { s.port p with
          rx := { (s.port p).rx with gapTiming := false, inCharacter := false, awaitMark := true, line := .space } }) ∧
  (∀ (p : Port) (s : State), s.resetLow = false →
    ((s.port p).rx.assembly = .brk → exec (.framingError p) s = .next s) ∧
    ((s.port p).rx.assembly ≠ .brk →
      ∃ t, exec (.framingError p) s = .next t ∧ OnlyPort s t p ∧
        t.port p = { s.port p with rx := (t.port p).rx, counters := (t.port p).counters } ∧
        (t.port p).rx = { assembly := .hunt, gapTiming := false, inCharacter := false, awaitMark := false,
                          line := .mark } ∧
        ((s.port p).rx.assembly = .hunt → (t.port p).counters = (s.port p).counters) ∧
        ((s.port p).rx.assembly ≠ .hunt →
          (t.port p).counters = { (s.port p).counters with framingDiscards := (t.port p).counters.framingDiscards } ∧
          (t.port p).counters.framingDiscards.toNat = min 65535 ((s.port p).counters.framingDiscards.toNat + 1)))) ∧
  ∀ (p : Port) (s : State), Listens s p → (s.port p).rx.assembly ≠ .hunt → (s.port p).rx.gapTiming = true →
    ∃ t, exec (.gapLimitExpiry p) s = .next t ∧ OnlyPort s t p ∧
      t.port p = { s.port p with rx := (t.port p).rx, counters := (t.port p).counters } ∧
      (t.port p).rx.assembly = .hunt ∧ (t.port p).rx.gapTiming = false ∧
      (t.port p).counters = { (s.port p).counters with gapDiscards := (t.port p).counters.gapDiscards } ∧
      (t.port p).counters.gapDiscards.toNat = min 65535 ((s.port p).counters.gapDiscards.toNat + 1)

/-- BREAK_DETECTED: the port reset. The receiver is in BREAK, the transmitter cut and emptied, the record emptied, the
session ended without a FIN, the notice state cleared, the port's holds removed and its waiting snapshot withdrawn. A
commit handed over stays with its staged words, a SWAP or COPY stays pending. The counters, the other ports, the image
and everything else stay. -/
def Obligations.BreakResetsThePort : Prop :=
  ∀ (p : Port) (s : State), Listens s p →
    ∃ t, exec (.breakDetected p) s = .next t ∧
      t = { s with ports := t.ports, claims := t.claims, holds := t.holds } ∧
      (∀ q, q ≠ p → t.port q = s.port q) ∧
      t.holds = s.holds.filter (fun h => h.owner ≠ p) ∧
      t.claims.flatten = s.claims.flatten.filter (fun c => !c.isSnapshotOf p) ∧
      (t.port p).rx.assembly = .brk ∧ (t.port p).rx.gapTiming = false ∧ (t.port p).rx.awaitMark = false ∧
      (t.port p).tx = { sending := none, queue := [], slot := none } ∧
      (t.port p).record = none ∧ (t.port p).tSeg = none ∧ (t.port p).tAck = none ∧ (t.port p).transfer = none ∧
      ((s.port p).session = .committing → (∀ x ∈ (s.port p).transfer, x.closing = false) →
        (t.port p).session = .committing ∧ (t.port p).buffer = (s.port p).buffer) ∧
      ((s.port p).session ≠ .committing ∨ (s.port p).transfer.any Transfer.closing = true →
        (t.port p).session = .idle ∧ (t.port p).buffer = []) ∧
      (t.port p).bankRequest.isSome = (s.port p).bankRequest.isSome ∧
      (∀ request, (t.port p).bankRequest ≠ some (.owed request)) ∧
      (t.port p).notice =
        { subs := (t.port p).notice.subs, queue := [], retry := 0, paused := false, tNtc := none, seqCounter := 0,
          lost := 0 } ∧
      (∀ i, (t.port p).notice.subs.get i = none) ∧
      (t.port p).counters = (s.port p).counters

/-- BREAK_END: the receiver hunts with its line at mark, and nothing else changes but what the port may now send:
with its bit at 1, a port at rest, not paused, with an entry queued sends the head, its NTC laid out as seq, kind, ref id,
area, first, last, generation, cause, lost, and waiting in the slot (log entry 21). Out of BREAK it has no effect (log
entry 4). -/
def Obligations.BreakEndFreesTheReceiver : Prop :=
  ∀ (p : Port) (s : State), s.resetLow = false →
    ((s.port p).rx.assembly ≠ .brk → exec (.breakEnd p) s = .next s) ∧
    ((s.port p).rx.assembly = .brk → (s.port p).tx = { sending := none, queue := [], slot := none } →
      ∃ t, exec (.breakEnd p) s = .next t ∧ OnlyPort s t p ∧
        (t.port p).rx = { assembly := .hunt, gapTiming := false, inCharacter := false, awaitMark := false,
                          line := .mark } ∧
        ((s.enabled p = false ∨ (s.port p).session ≠ .idle ∨ (s.port p).bankRequest ≠ none ∨
            (s.port p).notice.paused = true ∨ (s.port p).notice.queue = []) →
          t.port p = { s.port p with rx := (t.port p).rx }) ∧
        (∀ e rest, s.enabled p = true → (s.port p).session = .idle → (s.port p).bankRequest = none →
          (s.port p).notice.paused = false → (s.port p).notice.queue = e :: rest → e.sent = none →
          (t.port p).session = .notifying ∧
          (t.port p).notice.queue =
            { e with sent := some { seq := (s.port p).notice.seqCounter, lost := (s.port p).notice.lost } } :: rest ∧
          (t.port p).notice.seqCounter = (s.port p).notice.seqCounter + 1 ∧
          (t.port p).tx.sending = none ∧ (t.port p).tx.queue = [] ∧
          (t.port p).tx.slot =
            some
              { kind := .ntc, origin := .notice
                payload :=
                  [(s.port p).notice.seqCounter,
                   match e.kind with | .change => 1 | .holdlost => 2 | .fallback => 3,
                   e.refId,
                   match e.area with | .inp => 1 | .out => 2 | .wrd => 3 | .prm => 4 | .dia => 5,
                   BitVec.ofNat 8 (e.first / 256), BitVec.ofNat 8 e.first,
                   BitVec.ofNat 8 (e.last / 256), BitVec.ofNat 8 e.last,
                   BitVec.ofNat 8 (e.gen.toNat / 2 ^ 24), BitVec.ofNat 8 (e.gen.toNat / 2 ^ 16),
                   BitVec.ofNat 8 (e.gen.toNat / 2 ^ 8), BitVec.ofNat 8 e.gen.toNat,
                   e.cause, (s.port p).notice.lost] }))

/-- FRAME_SENT, whatever frame was in progress: the transmitter begins the oldest session frame, else the NTC in the
slot, else nothing; on the line it puts LEAD, the code of the kind, LEN, the payload, and the CRC high byte first. At a port
that is free, or made free by the FIN reported, not paused, with its bit at 1 and an entry queued, delivery sends the head:
its NTC waits in the slot, behind every session frame. Where delivery does not send, a reply's report changes the
transmitter alone. With no frame in progress but one waiting, it is that frame that was begun and is sent, and with none it
has no effect (the model's readings, log entries 4 and 21). -/
def Obligations.TransmitterTakesSessionFramesFirst : Prop :=
  (∀ (p : Port) (s : State) (f : Sending), Listens s p → (s.port p).tx.sending = some f →
    let code (kind : PartKind) : Byte :=
      match kind with | .rsp => 0x72 | .dat => 0x64 | .ack => 0x61 | .nak => 0x6B | .fin => 0x66 | .ntc => 0x63
    let begun (g : TxFrame) : Sending :=
      let crc := crc16 ([code g.kind, BitVec.ofNat 8 g.payload.length] ++ g.payload)
      { frame := g
        wire := [0xC3, code g.kind, BitVec.ofNat 8 g.payload.length] ++ g.payload ++
          [BitVec.ofNat 8 (crc.toNat / 256), BitVec.ofNat 8 crc.toNat] }
    let sends : Prop :=
      s.enabled p = true ∧ (s.port p).notice.paused = false ∧ (s.port p).notice.queue ≠ [] ∧
        (s.port p).bankRequest = none ∧
        ((s.port p).session = .idle ∨ f.frame.origin = .closing ∧ (s.port p).transfer.any Transfer.closing = true)
    ∃ t, exec (.frameSent p) s = .next t ∧ OnlyPort s t p ∧
      (f.frame.origin = .reply → ¬sends → t.port p = { s.port p with tx := (t.port p).tx }) ∧
      (∀ g rest, (s.port p).tx.queue = g :: rest →
        (t.port p).tx.sending = some (begun g) ∧ (t.port p).tx.queue = rest ∧
        (¬sends → (t.port p).tx.slot = (s.port p).tx.slot)) ∧
      ((s.port p).tx.queue = [] →
        (t.port p).tx.queue = [] ∧ (t.port p).tx.sending = (s.port p).tx.slot.map begun ∧
        (¬sends → (t.port p).tx.slot = none)) ∧
      (sends → ∀ e rest, (s.port p).notice.queue = e :: rest →
        let head : Notice :=
          if e.sent.isSome then e
          else { e with sent := some { seq := (s.port p).notice.seqCounter, lost := (s.port p).notice.lost } }
        (t.port p).session = .notifying ∧ (t.port p).notice.queue = head :: rest ∧
        (t.port p).tx.slot = some (ntcFrame head))) ∧
  ∀ (p : Port) (s : State), Listens s p → (s.port p).tx.sending = none →
    ((s.port p).tx.queue = [] → (s.port p).tx.slot = none → exec (.frameSent p) s = .next s) ∧
    ∀ b, FrameWaits (s.port p) → Begins (s.port p) b → exec (.frameSent p) s = exec (.frameSent p) (s.setPort p b)

/-- FRAME_SENT of a transfer's FIN: the record takes the request and the FIN, the Transfer Buffer is emptied, the session
record discarded, and the port at rest; nothing else of the part changes but the port's notice delivery. -/
def Obligations.FinSentClosesTheTransfer : Prop :=
  ∀ (p : Port) (s : State) (f : Sending) (x : Transfer), Listens s p → (s.port p).tx.sending = some f →
    f.frame.origin = .closing → (s.port p).transfer = some x → x.closing = true →
    ∃ t, exec (.frameSent p) s = .next t ∧ OnlyPort s t p ∧
      (t.port p).record = some { request := x.request, replyKind := .fin, reply := f.frame.payload } ∧
      (t.port p).buffer = [] ∧ (t.port p).transfer = none ∧
      ((t.port p).session = .idle ∨ (t.port p).session = .notifying) ∧
      SameNotices (s.port p).notice (t.port p).notice ∧
      t.port p =
        { s.port p with
          tx := (t.port p).tx, session := (t.port p).session, transfer := none, buffer := [],
          record := (t.port p).record, notice := (t.port p).notice }

/-- FRAME_SENT starts the waits: T_ack, for the captured time, when a DAT of the current seq of an open read is sent, and
not for another seq (R97; that it need not be a DAT of that same read is the model's choice, log entry 22); T_ntc, for
word 52 of the live bank, when the NTC placed last is sent in NOTIFYING (R123), which it is when the slot is empty (log
entry 11), word 52 being taken at that report (log entry 20). -/
def Obligations.SentFramesStartTheirWaits : Prop :=
  ∀ (p : Port) (s : State) (f : Sending), Listens s p → (s.port p).tx.sending = some f →
    (∀ x seq, Open s p .sending x → x.snapGen.isSome = true → f.frame.origin = .segment seq →
      ∃ t, exec (.frameSent p) s = .next t ∧ OnlyPort s t p ∧
        (t.port p).tAck = (if seq = x.seq then some x.wait else (s.port p).tAck) ∧
        t.port p = { s.port p with tx := (t.port p).tx, tAck := (t.port p).tAck }) ∧
    (f.frame.origin = .notice → (s.port p).session = .notifying → (s.port p).notice.outstanding.isSome = true →
      ∃ t, exec (.frameSent p) s = .next t ∧ OnlyPort s t p ∧
        (t.port p).notice =
          { (s.port p).notice with
            tNtc := if (s.port p).tx.slot = none then some (s.image.liveWord 52).toNat
              else (s.port p).notice.tNtc } ∧
        t.port p = { s.port p with tx := (t.port p).tx, notice := (t.port p).notice })

/-! ### Requests -/

/-- PING: RSP DONE with the generation, the live bank and the lost count as they stand, and no other change but the
record and the notice delivery: T_ntc stopped by the suspension, paused cleared, and the head sent, or sent again as it
was, once the reply is formed. -/
def Obligations.PingReportsThePart : Prop :=
  ∀ (p : Port) (tag : Byte) (s : State), Performs s p (Request.ping.payload tag) →
    ∃ t, exec (.ping p tag) s = .next t ∧ OnlyPort s t p ∧
      AnswersFinal (s.port p) (t.port p) [tag, 11] 0x01
        (genBytes s.image.gen ++ [BitVec.ofNat 8 s.image.live.toNat, (s.port p).notice.lost]) ∧
      (t.port p).notice.paused = false ∧
      (t.port p).notice.tNtc = (if (s.port p).session = .notifying then none else (s.port p).notice.tNtc) ∧
      (s.enabled p = false ∨ (s.port p).notice.queue = [] →
        (t.port p).session = .idle ∧ (t.port p).notice.queue = (s.port p).notice.queue ∧
        (t.port p).notice.retry = (s.port p).notice.retry) ∧
      (∀ e rest, s.enabled p = true → (s.port p).notice.queue = e :: rest →
        (t.port p).session = .notifying ∧
        (e.sent.isSome = true →
          (t.port p).notice.queue = e :: rest ∧ (t.port p).notice.retry = (s.port p).notice.retry ∧
          (t.port p).tx.slot = some (ntcFrame e)) ∧
        (e.sent = none →
          (t.port p).notice.queue =
            { e with sent := some { seq := (s.port p).notice.seqCounter, lost := (s.port p).notice.lost } } :: rest ∧
          (t.port p).notice.seqCounter = (s.port p).notice.seqCounter + 1 ∧ (t.port p).notice.retry = 0))

/-- A request equal, byte for byte, to the recorded one is answered by the recorded reply and is not performed: no hold, no
claim, no image word, no subscription and no record changes (of every request row). A DAT, in IDLE or NOTIFYING, of the
last segment of the recorded WRITE or MWRITE that closed with a FIN is answered by that FIN, whatever the DAT carries.
Where delivery sends at the same event, the reply goes before the NTC: R127 says so of a REQ, and for the DAT it is the
model's reading (log entry 10). -/
def Obligations.RecordAnswersRepeats : Prop :=
  (∀ (i : Instr) (p : Port) (request : List Byte) (s : State) (x : Exchange),
    frameOf i = some (p, .req, request) → Listens s p → AtRest (s.port p) → (s.port p).record = some x →
    x.request = request →
    ∃ t, exec i s = .next t ∧ OnlyPort s t p ∧
      AnswersPlain (s.port p) (t.port p) { kind := x.replyKind, payload := x.reply, origin := .reply }) ∧
  ∀ (p : Port) (s : State) (y : Exchange) (op : TransferOp) (tag area flags seq : Byte) (first count : Word)
      (data : List Byte),
    Listens s p → AtRest (s.port p) → (s.port p).record = some y → y.replyKind = .fin → op ≠ .read →
    y.request = op.request tag area flags first count → seq.toNat = segmentCount op count.toNat - 1 →
    ∃ t, exec (.dat p (tag :: seq :: data)) s = .next t ∧ OnlyPort s t p ∧
      AnswersPlain (s.port p) (t.port p) { kind := .fin, payload := y.reply, origin := .reply }

/-- A request on a port with a transfer open, with a commit outstanding after a port reset, or pending, other than a repeat of
the open request, is answered BUSY, and nothing else changes but the paused flag. A repeat of the open request is answered
ACCEPT again, identical to the first, while receiving, committing, or sending after the snapshot; it is dropped before the
snapshot and while closing. Of every request row, where the session frame queue has room. -/
def Obligations.RequestAtAPortInUse : Prop :=
  (∀ (i : Instr) (p : Port) (request : List Byte) (s : State),
    frameOf i = some (p, .req, request) → Listens s p →
    ((s.port p).session = .receiving ∨ (s.port p).session = .sending ∨ (s.port p).session = .committing ∨
      (s.port p).session = .idle ∧ (s.port p).bankRequest.isSome = true) →
    (∀ x ∈ (s.port p).transfer, x.request ≠ request) → (s.port p).tx.queue.length < 4 →
    ∃ t, exec i s = .next t ∧ OnlyPort s t p ∧
      (t.port p).tx.frames = (s.port p).tx.joined (rspFrame request 0x10 [0, 0]) ∧
      t.port p =
        { s.port p with tx := (t.port p).tx, notice := { (s.port p).notice with paused := false } }) ∧
  ∀ (i : Instr) (p : Port) (s : State) (x : Transfer),
    frameOf i = some (p, .req, x.request) → Listens s p → (s.port p).transfer = some x →
    ((s.port p).session = .receiving ∨ (s.port p).session = .sending ∨ (s.port p).session = .committing) →
    (s.port p).tx.queue.length < 4 →
    ∃ t, exec i s = .next t ∧ OnlyPort s t p ∧
      t.port p =
        { s.port p with tx := (t.port p).tx, notice := { (s.port p).notice with paused := false } } ∧
      if x.closing = true ∨ (s.port p).session = .sending ∧ x.snapGen = none then (t.port p).tx = (s.port p).tx
      else
        (t.port p).tx.frames =
          (s.port p).tx.joined
            (rspFrame x.request 0x00
              ((match x.snapGen with | some g => genBytes g | none => []) ++ [BitVec.ofNat 8 x.segments]))

/-- A frame formed at a port whose queue holds 4 frames removes the oldest of the queue unsent, and its producer is told
it is sent: the removal of a transfer's FIN closes the transfer, that of a DAT of the current seq starts T_ack (log entry
22). Shown where BUSY is the frame formed. -/
def Obligations.FullQueueRemovesTheOldest : Prop :=
  ∀ (i : Instr) (p : Port) (request : List Byte) (s : State) (x : Transfer) (f : TxFrame) (rest : List TxFrame),
    frameOf i = some (p, .req, request) → Listens s p →
    ((s.port p).session = .receiving ∨ (s.port p).session = .sending ∨ (s.port p).session = .committing) →
    (s.port p).bankRequest = none →
    (s.port p).transfer = some x → x.request ≠ request → (s.port p).tx.sending.isSome = true →
    (s.port p).tx.queue = f :: rest → rest.length = 3 →
    ∃ t, exec i s = .next t ∧ OnlyPort s t p ∧
      (t.port p).tx.queue = rest ++ [rspFrame request 0x10 [0, 0]] ∧
      (t.port p).tx.sending = (s.port p).tx.sending ∧
      (f.origin = .reply → (t.port p).transfer = some x ∧ (t.port p).session = (s.port p).session ∧
        (t.port p).tAck = (s.port p).tAck) ∧
      (f.origin = .closing → x.closing = true →
        (t.port p).transfer = none ∧ (t.port p).buffer = [] ∧
        (t.port p).record = some { request := x.request, replyKind := .fin, reply := f.payload } ∧
        ((t.port p).session = .idle ∨ (t.port p).session = .notifying)) ∧
      (∀ seq, f.origin = .segment seq → (s.port p).session = .sending → x.closing = false →
        x.snapGen.isSome = true → seq = x.seq →
        (t.port p).transfer = some x ∧ (t.port p).tAck = some x.wait)

/-- A request with tag 0 is answered BADTAG, which does not enter the record; a BAD_OPERATION is answered BADOP, which
does. Neither is performed. -/
def Obligations.BadRequestIsRefused : Prop :=
  (∀ (i : Instr) (p : Port) (request : List Byte) (s : State),
    frameOf i = some (p, .req, request) → Listens s p → AtRest (s.port p) → tagOf request = 0 →
    (∀ x ∈ (s.port p).record, x.request ≠ request) →
    ∃ t, exec i s = .next t ∧ OnlyPort s t p ∧
      AnswersPlain (s.port p) (t.port p) (rspFrame request 0x1C [0, 0])) ∧
  ∀ (p : Port) (tag op : Byte) (fields : List Byte) (s : State),
    (Instr.badOperation p tag op fields).wellFormed = true → Performs s p (tag :: op :: fields) →
    ∃ t, exec (.badOperation p tag op fields) s = .next t ∧ Refused s t p (tag :: op :: fields) 0x11 0

/-! ### Holds -/

/-- HOLD granted: with a range inside OUT, WRD or PRM, a lease of 1 to 600, no overlapping entry, fewer than 8 entries of
the port and fewer than 16 in all, a new entry takes the counter's value as id, the counter goes on to the first value
that no entry uses, and the reply is DONE with the id. -/
def Obligations.HoldIsGranted : Prop :=
  ∀ (p : Port) (tag : Byte) (area : Area) (first count lease : Word) (s : State),
    Performs s p ((Request.hold area.code first count lease).payload tag) →
    (area = .out ∨ area = .wrd ∨ area = .prm) → 1 ≤ count.toNat → first.toNat + count.toNat ≤ area.size →
    1 ≤ lease.toNat → lease.toNat ≤ 600 →
    (∀ h ∈ s.holds, ¬h.meets area first.toNat count.toNat) →
    (s.holds.filter fun h => h.owner = p).length < 8 → s.holds.length < 16 → s.nextId ≠ 0 →
    ∃ t, exec (.hold p tag area.code first count lease) s = .next t ∧
      t = { s with ports := t.ports, holds := t.holds, nextId := t.nextId } ∧ (∀ q, q ≠ p → t.port q = s.port q) ∧
      t.holds = s.holds ++
        [{ id := s.nextId, owner := p, area := area, first := first.toNat,
           last := first.toNat + count.toNat - 1, lease := lease.toNat * 100 }] ∧
      (∃ k ≤ 16, t.nextId.toNat = idAfter s.nextId (k + 1) ∧ (∀ h ∈ t.holds, h.id ≠ t.nextId) ∧
        ∀ j < k, ∃ h ∈ t.holds, h.id.toNat = idAfter s.nextId (j + 1)) ∧
      AnswersFinal (s.port p) (t.port p) ((Request.hold area.code first count lease).payload tag) 0x01 [s.nextId]

/-- HOLD refused: the first of the seven checks that fails gives the code and the detail, and the table and the counter
stay as they are. -/
def Obligations.HoldIsRefusedInOrder : Prop :=
  ∀ (p : Port) (tag areaCode : Byte) (first count lease : Word) (s : State),
    Performs s p ((Request.hold areaCode first count lease).payload tag) →
    let refusedWith (code : Byte) (detail : Word) : Prop :=
      ∃ t, exec (.hold p tag areaCode first count lease) s = .next t ∧
        Refused s t p ((Request.hold areaCode first count lease).payload tag) code detail
    (areaCode ≠ 2 → areaCode ≠ 3 → areaCode ≠ 4 → refusedWith 0x12 0) ∧
    ∀ area : Area, area.code = areaCode → (area = .out ∨ area = .wrd ∨ area = .prm) →
      (¬(1 ≤ count.toNat ∧ first.toNat + count.toNat ≤ area.size) → refusedWith 0x13 0) ∧
      (1 ≤ count.toNat → first.toNat + count.toNat ≤ area.size →
        (¬(1 ≤ lease.toNat ∧ lease.toNat ≤ 600) → refusedWith 0x1E 0) ∧
        (1 ≤ lease.toNat → lease.toNat ≤ 600 →
          (∀ id, LowestId s.holds (fun h => h.owner ≠ p ∧ h.meets area first.toNat count.toNat) id →
            refusedWith 0x15 (id.setWidth 16)) ∧
          ((∀ h ∈ s.holds, h.owner ≠ p → ¬h.meets area first.toNat count.toNat) →
            (∀ id, LowestId s.holds (fun h => h.owner = p ∧ h.meets area first.toNat count.toNat) id →
              refusedWith 0x18 (id.setWidth 16)) ∧
            ((∀ h ∈ s.holds, ¬h.meets area first.toNat count.toNat) →
              (8 ≤ (s.holds.filter fun h => h.owner = p).length → refusedWith 0x17 0) ∧
              ((s.holds.filter fun h => h.owner = p).length < 8 → 16 ≤ s.holds.length → refusedWith 0x16 0)))))

/-- RELEASE: NOTFOUND for an id no entry has, NOTOWNER for another port's entry, else the entry goes and the reply is DONE; the
next-id counter stays and no notice is made. RENEW: NOTFOUND, NOTOWNER or BADLEASE as the first failing check says, else
the lease remaining is the new lease × 100 ms, neither added to the old one nor changing anything else of the entry. -/
def Obligations.HoldIsReleasedOrRenewed : Prop :=
  (∀ (p : Port) (tag id : Byte) (s : State), Performs s p ((Request.release id).payload tag) →
    ((∀ h ∈ s.holds, h.id ≠ id) →
      ∃ t, exec (.release p tag id) s = .next t ∧ Refused s t p ((Request.release id).payload tag) 0x19 0) ∧
    ∀ h, s.holds.find? (fun h => h.id = id) = some h →
      (h.owner ≠ p →
        ∃ t, exec (.release p tag id) s = .next t ∧ Refused s t p ((Request.release id).payload tag) 0x1A 0) ∧
      (h.owner = p →
        ∃ t, exec (.release p tag id) s = .next t ∧ t = { s with ports := t.ports, holds := t.holds } ∧
          (∀ q, q ≠ p → t.port q = s.port q) ∧ t.holds = s.holds.filter (fun h => h.id ≠ id) ∧
          AnswersFinal (s.port p) (t.port p) ((Request.release id).payload tag) 0x01 [])) ∧
  ∀ (p : Port) (tag id : Byte) (lease : Word) (s : State), Performs s p ((Request.renew id lease).payload tag) →
    ((∀ h ∈ s.holds, h.id ≠ id) →
      ∃ t, exec (.renew p tag id lease) s = .next t ∧ Refused s t p ((Request.renew id lease).payload tag) 0x19 0) ∧
    ∀ h, s.holds.find? (fun h => h.id = id) = some h →
      (h.owner ≠ p →
        ∃ t, exec (.renew p tag id lease) s = .next t ∧ Refused s t p ((Request.renew id lease).payload tag) 0x1A 0) ∧
      (h.owner = p → ¬(1 ≤ lease.toNat ∧ lease.toNat ≤ 600) →
        ∃ t, exec (.renew p tag id lease) s = .next t ∧ Refused s t p ((Request.renew id lease).payload tag) 0x1E 0) ∧
      (h.owner = p → 1 ≤ lease.toNat → lease.toNat ≤ 600 →
        ∃ t, exec (.renew p tag id lease) s = .next t ∧ t = { s with ports := t.ports, holds := t.holds } ∧
          (∀ q, q ≠ p → t.port q = s.port q) ∧
          t.holds = s.holds.map (fun h => if h.id = id then { h with lease := lease.toNat * 100 } else h) ∧
          AnswersFinal (s.port p) (t.port p) ((Request.renew id lease).payload tag) 0x01 [])

/-- LEASE_EXPIRY of an entry with nothing left of its lease: the entry goes, the counter and the image stay, and its owner
is told by a HOLDLOST item with the id, the range, the generation as it stands and cause 11. -/
def Obligations.LeaseExpiryTellsTheOwner : Prop :=
  ∀ (id : Byte) (s : State) (h : Hold), s.resetLow = false → s.holds.find? (fun h => h.id = id) = some h →
    h.lease = 0 →
    ∃ t, exec (.leaseExpiry id) s = .next t ∧ t = { s with ports := t.ports, holds := t.holds } ∧
      (∀ q, q ≠ h.owner → t.port q = s.port q) ∧ t.holds = s.holds.filter (fun h => h.id ≠ id) ∧
      Told (s.enabled h.owner) (s.port h.owner) (t.port h.owner)
        { kind := .holdlost, refId := id, area := h.area, first := h.first, last := h.last, gen := s.image.gen,
          cause := 11, sent := none }

/-! ### Subscriptions -/

/-- SUBSCRIBE: refused by the first failing check, else the smallest free id takes the subscription, EDIT stored for PRM only,
and the reply is DONE with the id. UNSUBSCRIBE: NOTFOUND when no subscription has the id, else the subscription goes with
its unsent CHANGE entry, which is not counted as lost, and the reply is DONE. -/
def Obligations.SubscriptionsComeAndGo : Prop :=
  (∀ (p : Port) (tag areaCode flags : Byte) (first count : Word) (s : State),
    Performs s p ((Request.subscribe areaCode flags first count).payload tag) →
    let refusedWith (code : Byte) : Prop :=
      ∃ t, exec (.subscribe p tag areaCode flags first count) s = .next t ∧
        Refused s t p ((Request.subscribe areaCode flags first count).payload tag) code 0
    (areaCode ≠ 1 → areaCode ≠ 2 → areaCode ≠ 3 → areaCode ≠ 4 → refusedWith 0x12) ∧
    ∀ area : Area, area.code = areaCode → area ≠ .dia →
      (¬(1 ≤ count.toNat ∧ first.toNat + count.toNat ≤ area.size) → refusedWith 0x13) ∧
      (1 ≤ count.toNat → first.toNat + count.toNat ≤ area.size →
        let sub : Subscription :=
          { area := area, edit := decide (area = .prm) && flags.getLsbD 0, noself := flags.getLsbD 1,
            first := first.toNat, last := first.toNat + count.toNat - 1 }
        ((∃ i, (s.port p).notice.subs.get i = some sub) → refusedWith 0x1D) ∧
        ((∀ i, (s.port p).notice.subs.get i ≠ some sub) → (∀ i, (s.port p).notice.subs.get i ≠ none) →
          refusedWith 0x17) ∧
        ∀ i, (∀ j, (s.port p).notice.subs.get j ≠ some sub) → (s.port p).notice.subs.get i = none →
          (∀ j, j < i → (s.port p).notice.subs.get j ≠ none) →
          ∃ t, exec (.subscribe p tag areaCode flags first count) s = .next t ∧ OnlyPort s t p ∧
            (t.port p).tx.frames =
              (s.port p).tx.joined
                (rspFrame ((Request.subscribe areaCode flags first count).payload tag) 0x01
                  [BitVec.ofNat 8 (i.val + 1)]) ∧
            (t.port p).record =
              some { request := (Request.subscribe areaCode flags first count).payload tag, replyKind := .rsp,
                     reply := [tag, 0x01, BitVec.ofNat 8 (i.val + 1)] } ∧
            (∀ j, (t.port p).notice.subs.get j = if j = i then some sub else (s.port p).notice.subs.get j) ∧
            (t.port p).notice.queue.map Notice.entry = (s.port p).notice.queue.map Notice.entry ∧
            (t.port p).notice.lost = (s.port p).notice.lost ∧
            t.port p =
              { s.port p with tx := (t.port p).tx, record := (t.port p).record, session := (t.port p).session,
                              notice := (t.port p).notice })) ∧
  ∀ (p : Port) (tag id : Byte) (s : State), Performs s p ((Request.unsubscribe id).payload tag) →
    ((∀ i : Fin 4, id.toNat = i.val + 1 → (s.port p).notice.subs.get i = none) →
      ∃ t, exec (.unsubscribe p tag id) s = .next t ∧ Refused s t p ((Request.unsubscribe id).payload tag) 0x19 0) ∧
    ∀ i : Fin 4, id.toNat = i.val + 1 → (s.port p).notice.subs.get i ≠ none →
      ∃ t, exec (.unsubscribe p tag id) s = .next t ∧ OnlyPort s t p ∧
        (t.port p).tx.frames = (s.port p).tx.joined (rspFrame ((Request.unsubscribe id).payload tag) 0x01 []) ∧
        (t.port p).record =
          some { request := (Request.unsubscribe id).payload tag, replyKind := .rsp, reply := [tag, 0x01] } ∧
        (∀ j, (t.port p).notice.subs.get j = if j = i then none else (s.port p).notice.subs.get j) ∧
        (t.port p).notice.queue.map Notice.entry =
          ((s.port p).notice.queue.filter fun e => !(e.kind = .change && e.sent.isNone && e.refId = id)).map
            Notice.entry ∧
        (t.port p).notice.lost = (s.port p).notice.lost ∧
        t.port p =
          { s.port p with tx := (t.port p).tx, record := (t.port p).record, session := (t.port p).session,
                          notice := (t.port p).notice }

/-! ### Transfers -/

/-- The segments of a transfer: the count over the segment size rounded up, 1 to 8 of them; every DAT but the last is of 66
bytes, and the last carries what is left. -/
def Obligations.SegmentsOfATransfer : Prop :=
  ∀ (op : TransferOp) (count : Nat), 1 ≤ count → count ≤ op.limit →
    let size := if op = .mwrite then 16 else 32
    let bytes := if op = .mwrite then 4 else 2
    let n := segmentCount op count
    1 ≤ n ∧ n ≤ 8 ∧ size * (n - 1) < count ∧ count ≤ size * n ∧
      (∀ k, k + 1 < n → expectedLen op count k = 66) ∧
      expectedLen op count (n - 1) = 2 + bytes * (count - size * (n - 1))

/-- WRITE and MWRITE accepted: with an area that admits the operation, a range inside it and inside the limit, and no
overlapping hold of another port, the session record is filled, T_seg and the retry limit are the live words 50 and 53,
a PRM write records the edit bank, the Transfer Buffer is empty, and the reply is ACCEPT with the segment count. READ
accepted: of any area, with a range inside it and at most 256 words, whatever holds there are; the session record is filled
with T_ack and the retry limit of the live bank, a snapshot claim is handed over, and no frame is formed. -/
def Obligations.TransferIsAccepted : Prop :=
  (∀ (op : TransferOp) (p : Port) (tag flags : Byte) (area : Area) (first count : Word) (s : State),
    op ≠ .read → Performs s p (op.request tag area.code flags first count) →
    (area = .out ∨ area = .wrd ∨ area = .prm ∧ op = .write) →
    1 ≤ count.toNat → first.toNat + count.toNat ≤ area.size → count.toNat ≤ (if op = .write then 256 else 128) →
    (∀ h ∈ s.holds, h.owner ≠ p → ¬h.meets area first.toNat count.toNat) →
    ∃ t, exec (op.row p tag area.code flags first count) s = .next t ∧ OnlyPort s t p ∧
      (t.port p).session = .receiving ∧
      (t.port p).transfer =
        some { request := op.request tag area.code flags first count, op := op, area := area,
               edit := flags.getLsbD 0, first := first.toNat, count := count.toNat, seq := 0, retry := 0,
               retryLimit := (s.image.liveWord 53).toNat, wait := (s.image.liveWord 50).toNat,
               target := if area = .prm then some s.image.live.other else none, snapGen := none,
               closing := false } ∧
      (t.port p).buffer = [] ∧ (t.port p).tSeg = some (s.image.liveWord 50).toNat ∧
      (t.port p).tx.frames =
        (s.port p).tx.joined
          (rspFrame (op.request tag area.code flags first count) 0x00
            [BitVec.ofNat 8 (segmentCount op count.toNat)]) ∧
      SameNotices (s.port p).notice (t.port p).notice ∧ (t.port p).notice.paused = false ∧
      ((s.port p).session = .notifying → (t.port p).notice.tNtc = none ∧ (t.port p).tx.slot = none) ∧
      t.port p =
        { s.port p with tx := (t.port p).tx, session := .receiving, transfer := (t.port p).transfer, buffer := [],
                        tSeg := (t.port p).tSeg, notice := (t.port p).notice }) ∧
  ∀ (p : Port) (tag flags : Byte) (area : Area) (first count : Word) (s : State),
    Performs s p ((Request.read area.code flags first count).payload tag) →
    1 ≤ count.toNat → first.toNat + count.toNat ≤ area.size → count.toNat ≤ 256 →
    ∃ t, exec (.read p tag area.code flags first count) s = .next t ∧
      t = { s with ports := t.ports, claims := t.claims } ∧ (∀ q, q ≠ p → t.port q = s.port q) ∧
      t.claims = s.claims ++ [[.snapshot p area (flags.getLsbD 0) first.toNat count.toNat]] ∧
      (t.port p).session = .sending ∧
      (t.port p).transfer =
        some { request := (Request.read area.code flags first count).payload tag, op := .read, area := area,
               edit := flags.getLsbD 0, first := first.toNat, count := count.toNat, seq := 0, retry := 0,
               retryLimit := (s.image.liveWord 53).toNat, wait := (s.image.liveWord 51).toNat, target := none,
               snapGen := none, closing := false } ∧
      (t.port p).tx.frames = (s.port p).tx.frames ∧
      SameNotices (s.port p).notice (t.port p).notice ∧ (t.port p).notice.paused = false ∧
      ((s.port p).session = .notifying → (t.port p).notice.tNtc = none ∧ (t.port p).tx.slot = none) ∧
      t.port p =
        { s.port p with tx := (t.port p).tx, session := .sending, transfer := (t.port p).transfer,
                        notice := (t.port p).notice }

/-- READ, WRITE and MWRITE refused: an unknown area, an area that does not admit the operation, a range outside the area or
above the limit, another port's hold, in this order; no transfer is opened and no claim handed over. -/
def Obligations.TransferIsRefusedInOrder : Prop :=
  ∀ (op : TransferOp) (p : Port) (tag areaCode flags : Byte) (first count : Word) (s : State),
    Performs s p (op.request tag areaCode flags first count) →
    let refusedWith (code : Byte) (detail : Word) : Prop :=
      ∃ t, exec (op.row p tag areaCode flags first count) s = .next t ∧
        Refused s t p (op.request tag areaCode flags first count) code detail
    ((∀ area : Area, area.code ≠ areaCode) → refusedWith 0x12 0) ∧
    ∀ area : Area, area.code = areaCode →
      let admitted : Prop := op = .read ∨ area = .out ∨ area = .wrd ∨ area = .prm ∧ op = .write
      let inside : Prop :=
        1 ≤ count.toNat ∧ first.toNat + count.toNat ≤ area.size ∧
          count.toNat ≤ (if op = .mwrite then 128 else 256)
      (¬admitted → refusedWith 0x14 0) ∧ (admitted → ¬inside → refusedWith 0x13 0) ∧
        (admitted → inside → op ≠ .read →
          ∀ id, LowestId s.holds (fun h => h.owner ≠ p ∧ h.meets area first.toNat count.toNat) id →
            refusedWith 0x15 (id.setWidth 16))

/-- DAT, in RECEIVING, of the expected segment: its words are stored and the retry count is 0. Before the last segment the
ACK is formed and the next seq expected; at the last one the commit claim is handed over and the port is COMMITTING, with
T_seg stopped. -/
def Obligations.DatStoresTheSegment : Prop :=
  ∀ (p : Port) (s : State) (x : Transfer) (seq : Byte) (data : List Byte),
    Open s p .receiving x → seq.toNat = x.seq → 2 + data.length = expectedLen x.op x.count x.seq →
    (x.seq + 1 < x.segments →
      ∃ t, exec (.dat p (x.tag :: seq :: data)) s = .next t ∧ OnlyPort s t p ∧
        (t.port p).tx.frames =
          (s.port p).tx.joined { kind := .ack, payload := [x.tag, seq], origin := .reply } ∧
        t.port p =
          { s.port p with
            tx := (t.port p).tx
            transfer := some { x with retry := 0, seq := x.seq + 1 }
            buffer := (s.port p).buffer ++ wordsOf data
            tSeg := some x.wait
            notice := { (s.port p).notice with paused := false } }) ∧
    (x.seq + 1 = x.segments → ∀ region, x.commitRegion = some region →
      ∃ t, exec (.dat p (x.tag :: seq :: data)) s = .next t ∧ t = { s with ports := t.ports, claims := t.claims } ∧
        (∀ q, q ≠ p → t.port q = s.port q) ∧
        t.claims = s.claims ++
          [[.commit p (if x.op = .mwrite then .mwrite else .write) region x.first x.count]] ∧
        t.port p =
          { s.port p with
            session := .committing
            transfer := some { x with retry := 0 }
            buffer := (s.port p).buffer ++ wordsOf data
            tSeg := none
            notice := { (s.port p).notice with paused := false } })

/-- DAT, in RECEIVING, that is not the expected segment: the segment stored last is acknowledged again and not stored; any
other is a fault, which counts a retry and forms NAK, or FIN RETRIES past the captured limit. Every one restarts T_seg. -/
def Obligations.DatOutOfSequence : Prop :=
  ∀ (p : Port) (s : State) (x : Transfer) (seq : Byte) (data : List Byte), Open s p .receiving x →
    (seq.toNat + 1 = x.seq →
      ∃ t, exec (.dat p (x.tag :: seq :: data)) s = .next t ∧ OnlyPort s t p ∧
        (t.port p).tx.frames = (s.port p).tx.joined { kind := .ack, payload := [x.tag, seq], origin := .reply } ∧
        t.port p =
          { s.port p with tx := (t.port p).tx, tSeg := some x.wait
                          notice := { (s.port p).notice with paused := false } }) ∧
    (¬(seq.toNat = x.seq ∧ 2 + data.length = expectedLen x.op x.count x.seq) → seq.toNat + 1 ≠ x.seq →
      ∃ t, exec (.dat p (x.tag :: seq :: data)) s = .next t ∧ OnlyPort s t p ∧
        (t.port p).counters = { (s.port p).counters with retries := (t.port p).counters.retries } ∧
        (t.port p).counters.retries.toNat = min 65535 ((s.port p).counters.retries.toNat + 1) ∧
        (x.retry + 1 ≤ x.retryLimit →
          (t.port p).tx.frames =
            (s.port p).tx.joined
              { kind := .nak, payload := [x.tag, BitVec.ofNat 8 x.seq], origin := .reply } ∧
          t.port p =
            { s.port p with tx := (t.port p).tx, tSeg := some x.wait, transfer := some { x with retry := x.retry + 1 }
                            counters := (t.port p).counters
                            notice := { (s.port p).notice with paused := false } }) ∧
        (x.retryLimit < x.retry + 1 →
          (t.port p).tx.frames = (s.port p).tx.joined (finFrame x.tag 4 0 0) ∧
          t.port p =
            { s.port p with tx := (t.port p).tx, tSeg := none, tAck := none
                            transfer := some { x with retry := x.retry + 1, closing := true }
                            counters := (t.port p).counters
                            notice := { (s.port p).notice with paused := false } }))

/-- ACK, in SENDING after the snapshot, of the current seq: T_ack stops and the retry count is 0; the DAT of the next
segment is formed from the snapshot, or FIN OK with the snapshot generation after the last. -/
def Obligations.AckSendsTheNextSegment : Prop :=
  ∀ (p : Port) (s : State) (x : Transfer) (seq : Byte) (gen : Gen),
    Open s p .sending x → x.snapGen = some gen → seq.toNat = x.seq → (s.port p).buffer.length = x.count →
    (x.seq + 1 < x.segments → x.op = .read → (s.port p).tx.queue.length < 4 →
      ∃ t, exec (.ack p [x.tag, seq]) s = .next t ∧ OnlyPort s t p ∧
        (t.port p).tx.frames = (s.port p).tx.joined (readFrame x.tag (x.seq + 1) (s.port p).buffer) ∧
        t.port p =
          { s.port p with tx := (t.port p).tx, tAck := none
                          transfer := some { x with retry := 0, seq := x.seq + 1 }
                          notice := { (s.port p).notice with paused := false } }) ∧
    (x.segments ≤ x.seq + 1 →
      ∃ t, exec (.ack p [x.tag, seq]) s = .next t ∧ OnlyPort s t p ∧
        (t.port p).tx.frames = (s.port p).tx.joined (finFrame x.tag 0 gen 0) ∧
        t.port p =
          { s.port p with tx := (t.port p).tx, tSeg := none, tAck := none
                          transfer := some { x with retry := 0, closing := true }
                          notice := { (s.port p).notice with paused := false } })

/-- NAK of the current seq, in SENDING after the snapshot: a retry is counted, and the same DAT formed again from the
snapshot, or FIN RETRIES past the captured limit. T_ACK_EXPIRY, with nothing left of T_ack, does the same and counts a
timeout besides. -/
def Obligations.ReadSegmentIsSentAgain : Prop :=
  ∀ (p : Port) (s : State) (x : Transfer) (seq : Byte) (gen : Gen) (byNak : Bool),
    Open s p .sending x → x.op = .read → x.snapGen = some gen → seq.toNat = x.seq →
    (s.port p).buffer.length = x.count → (s.port p).tx.queue.length < 4 →
    (byNak = false → (s.port p).tAck = some 0) →
    let ns := if byNak then { (s.port p).notice with paused := false } else (s.port p).notice
    ∃ t, exec (if byNak then .nak p [x.tag, seq] else .tAckExpiry p) s = .next t ∧ OnlyPort s t p ∧
      (t.port p).counters =
        { (s.port p).counters with
          retries := (t.port p).counters.retries, timeouts := (t.port p).counters.timeouts } ∧
      (t.port p).counters.retries.toNat = min 65535 ((s.port p).counters.retries.toNat + 1) ∧
      (t.port p).counters.timeouts.toNat =
        (if byNak then (s.port p).counters.timeouts.toNat
          else min 65535 ((s.port p).counters.timeouts.toNat + 1)) ∧
      (x.retry + 1 ≤ x.retryLimit →
        (t.port p).tx.frames = (s.port p).tx.joined (readFrame x.tag x.seq (s.port p).buffer) ∧
        t.port p =
          { s.port p with tx := (t.port p).tx, tAck := none, transfer := some { x with retry := x.retry + 1 }
                          counters := (t.port p).counters, notice := ns }) ∧
      (x.retryLimit < x.retry + 1 →
        (t.port p).tx.frames = (s.port p).tx.joined (finFrame x.tag 4 0 0) ∧
        t.port p =
          { s.port p with tx := (t.port p).tx, tSeg := none, tAck := none
                          transfer := some { x with retry := x.retry + 1, closing := true }
                          counters := (t.port p).counters, notice := ns })

/-- ABT with the open tag, in RECEIVING or in SENDING after the snapshot: FIN ABORTED is formed and no timer runs.
T_SEG_EXPIRY, in RECEIVING with nothing left of T_seg: a session timeout is counted and FIN TIMEOUT formed. The image and
the claims stay as they are: nothing of the transfer is committed. -/
def Obligations.TransferEndsWithoutACommit : Prop :=
  (∀ (p : Port) (s : State) (x : Transfer),
    (Open s p .receiving x ∨ Open s p .sending x ∧ x.snapGen.isSome = true) →
    ∃ t, exec (.abt p [x.tag]) s = .next t ∧ OnlyPort s t p ∧
      (t.port p).tx.frames = (s.port p).tx.joined (finFrame x.tag 5 0 0) ∧
      t.port p =
        { s.port p with tx := (t.port p).tx, tSeg := none, tAck := none, transfer := some { x with closing := true }
                        notice := { (s.port p).notice with paused := false } }) ∧
  ∀ (p : Port) (s : State) (x : Transfer), Open s p .receiving x → (s.port p).tSeg = some 0 →
    ∃ t, exec (.tSegExpiry p) s = .next t ∧ OnlyPort s t p ∧
      (t.port p).tx.frames = (s.port p).tx.joined (finFrame x.tag 3 0 0) ∧
      (t.port p).counters = { (s.port p).counters with timeouts := (t.port p).counters.timeouts } ∧
      (t.port p).counters.timeouts.toNat = min 65535 ((s.port p).counters.timeouts.toNat + 1) ∧
      t.port p =
        { s.port p with tx := (t.port p).tx, tSeg := none, tAck := none, transfer := some { x with closing := true }
                        counters := (t.port p).counters }

/-- A frame that its port's state does not admit is dropped: no reply, no timer, no counter, no change of the session, the
record or the claims; it only clears the paused flag, so that delivery may send. So it is with a frame too short for its
fields, a DAT in SENDING, in COMMITTING, of another tag, while closing, or at rest but not the recorded last segment, an
ACK or NAK of another tag or seq or out of place, an ABT of another tag or out of place, an NTA that is not of the
outstanding seq. A REQ of less than two bytes comes from the characters only. -/
def Obligations.FramesOutOfPlaceAreDropped : Prop :=
  (∀ (i : Instr) (p : Port) (kind : MasterKind) (payload : List Byte) (s : State),
    frameOf i = some (p, kind, payload) → Listens s p →
    let atRest : Prop := (s.port p).session = .idle ∨ (s.port p).session = .notifying
    (kind = .dat ∧
        (payload.length < 2 ∨ (s.port p).session = .sending ∨ (s.port p).session = .committing ∨
          (s.port p).session = .receiving ∧
            (∀ x ∈ (s.port p).transfer, x.closing = true ∨ x.tag ≠ tagOf payload) ∨
          atRest ∧ ∀ y ∈ (s.port p).record,
            y.replyKind ≠ .fin ∨ tagOf y.request ≠ tagOf payload ∨
              ∀ (op : TransferOp) (tag area flags : Byte) (first count : Word), op ≠ .read →
                y.request = op.request tag area flags first count →
                ∀ seq, payload[1]? = some seq → seq.toNat ≠ segmentCount op count.toNat - 1) ∨
      (kind = .ack ∨ kind = .nak) ∧
        ((s.port p).session ≠ .sending ∨
          ∀ x ∈ (s.port p).transfer,
            x.closing = true ∨ x.snapGen = none ∨ payload ≠ [x.tag, BitVec.ofNat 8 x.seq]) ∨
      kind = .abt ∧
        (∀ x ∈ (s.port p).transfer,
          x.closing = true ∨ payload ≠ [x.tag] ∨
            ¬((s.port p).session = .receiving ∨ (s.port p).session = .sending ∧ x.snapGen.isSome = true)) ∨
      kind = .nta ∧
        (∀ e info, (s.port p).notice.queue.head? = some e → e.sent = some info → payload ≠ [info.seq])) →
    ∃ t, exec i s = .next t ∧ OnlyPort s t p ∧ Drops (s.enabled p) (s.port p) (t.port p)) ∧
  ∀ (p : Port) (n high low : Byte) (got : List Byte) (parityBit : Bool) (s : State),
    Listens s p → (s.port p).rx.awaitMark = false → (s.parity = true → parityBit = parityOf low) →
    (s.port p).rx.assembly = .check 0x52 n got (some high) → crc16 (0x52 :: n :: got) = wordOf high low →
    got.length < 2 →
    ∃ t, exec (.characterReceived p low parityBit true) s = .next t ∧ OnlyPort s t p ∧
      Drops (s.enabled p)
        { s.port p with
          rx := { assembly := .hunt, gapTiming := false, inCharacter := false, awaitMark := false, line := .mark } }
        (t.port p)

/-- SWAP and COPY requests: the claim is handed to the arbiter, the port is pending, and no reply is formed yet. -/
def Obligations.BankRequestHandsItsClaim : Prop :=
  ∀ (p : Port) (tag : Byte) (s : State) (swaps : Bool),
    let request := (if swaps then Request.swap else Request.copy).payload tag
    Performs s p request →
    ∃ t, exec (if swaps then .swap p tag else .copy p tag) s = .next t ∧
      t = { s with ports := t.ports, claims := t.claims } ∧ (∀ q, q ≠ p → t.port q = s.port q) ∧
      t.claims = s.claims ++ [[if swaps then .swap p else .copy p]] ∧
      (t.port p).bankRequest = some (.owed request) ∧ (t.port p).session = .idle ∧
      (t.port p).tx.frames = (s.port p).tx.frames ∧
      SameNotices (s.port p).notice (t.port p).notice ∧ (t.port p).notice.paused = false ∧
      ((s.port p).session = .notifying → (t.port p).notice.tNtc = none ∧ (t.port p).tx.slot = none) ∧
      t.port p =
        { s.port p with tx := (t.port p).tx, session := .idle, bankRequest := (t.port p).bankRequest
                        notice := (t.port p).notice }

/-! ### Notices -/

/-- NTA of the outstanding seq, with a transfer open or none: the head entry goes, the lost count falls by the value its NTC
carried, not below 0, T_ntc stops, the waiting NTC is taken back, and a port in NOTIFYING is at rest again. What else is
queued is then sent if the port may send it, the next head with the next seq. -/
def Obligations.NtaAcknowledgesTheNotice : Prop :=
  ∀ (p : Port) (s : State) (e : Notice) (rest : List Notice) (info : SentInfo), Listens s p →
    (s.port p).notice.queue = e :: rest → e.sent = some info → (∀ x ∈ rest, x.sent = none) →
    ∃ t, exec (.nta p [info.seq]) s = .next t ∧ OnlyPort s t p ∧
      (t.port p).notice.queue.map Notice.entry = rest.map Notice.entry ∧
      (t.port p).notice.lost.toNat = (s.port p).notice.lost.toNat - info.lost.toNat ∧
      (t.port p).notice.retry = 0 ∧ (t.port p).notice.paused = false ∧ (t.port p).notice.tNtc = none ∧
      (t.port p).notice.subs = (s.port p).notice.subs ∧
      t.port p = { s.port p with tx := (t.port p).tx, session := (t.port p).session, notice := (t.port p).notice } ∧
      (s.enabled p = false ∨ rest = [] ∨ (s.port p).bankRequest.isSome = true ∨
          ((s.port p).session ≠ .idle ∧ (s.port p).session ≠ .notifying) →
        (t.port p).notice.queue = rest ∧ (t.port p).tx = { (s.port p).tx with slot := none } ∧
        (t.port p).session = if (s.port p).session = .notifying then .idle else (s.port p).session) ∧
      (∀ e2 rest2, s.enabled p = true → rest = e2 :: rest2 → AtRest (s.port p) →
        (t.port p).session = .notifying ∧
        (t.port p).notice.queue =
          { e2 with sent := some { seq := (s.port p).notice.seqCounter, lost := (t.port p).notice.lost } } :: rest2 ∧
        (t.port p).notice.seqCounter = (s.port p).notice.seqCounter + 1)

/-- T_NTC_EXPIRY: the retry count rises. Within the live retry limit the same NTC is placed again, or, with the port's bit at
0, held back with the port at rest; past the limit the entry is dropped, counted as lost, and delivery pauses. So it is
with nothing left of T_ntc. The NTC placed waits in the slot, also of a free transmitter (log entry 21): a READ accepted
next takes it back and suspends the notice. -/
def Obligations.NoticeWaitRunsOut : Prop :=
  ∀ (p : Port) (s : State) (e : Notice) (rest : List Notice), Listens s p → (s.port p).session = .notifying →
    (s.port p).notice.tNtc = some 0 → (s.port p).notice.queue = e :: rest → e.sent.isSome = true →
    ((s.port p).notice.retry + 1 ≤ (s.image.liveWord 53).toNat → s.enabled p = true →
      ∃ t, exec (.tNtcExpiry p) s = .next t ∧ OnlyPort s t p ∧
        t.port p =
          { s.port p with
            tx := { (s.port p).tx with slot := some (ntcFrame e) }
            notice := { (s.port p).notice with retry := (s.port p).notice.retry + 1, tNtc := none } } ∧
        ∀ (tag flags : Byte) (area : Area) (first count : Word),
          Performs t p ((Request.read area.code flags first count).payload tag) →
          1 ≤ count.toNat → first.toNat + count.toNat ≤ area.size → count.toNat ≤ 256 →
          ∃ u, exec (.read p tag area.code flags first count) t = .next u ∧ (u.port p).session = .sending ∧
            (u.port p).tx = { (s.port p).tx with slot := none } ∧
            (u.port p).notice =
              { (s.port p).notice with retry := (s.port p).notice.retry + 1, tNtc := none, paused := false }) ∧
    ((s.port p).notice.retry + 1 ≤ (s.image.liveWord 53).toNat → s.enabled p = false →
      ∃ t, exec (.tNtcExpiry p) s = .next t ∧ OnlyPort s t p ∧
        t.port p =
          { s.port p with
            session := .idle
            notice := { (s.port p).notice with retry := (s.port p).notice.retry + 1, tNtc := none } }) ∧
    ((s.image.liveWord 53).toNat < (s.port p).notice.retry + 1 →
      ∃ t, exec (.tNtcExpiry p) s = .next t ∧ OnlyPort s t p ∧
        (t.port p).notice.lost.toNat = min 255 ((s.port p).notice.lost.toNat + 1) ∧
        t.port p =
          { s.port p with
            session := .idle
            notice := { (s.port p).notice with queue := rest, lost := (t.port p).notice.lost, retry := 0,
                                               paused := true, tNtc := none } })

/-- The placing of an item, in the first of three ways that applies: a CHANGE merges into the unsent CHANGE entry of its
subscription, even in a full queue; else the item joins at the tail if fewer than 8 entries stand; else it is lost and the
lost count rises by 1, staying at 255. Which subscriptions a report reaches, and with what range: commits by overlap, with
EDIT for PRM and NOSELF against the port's own; input updates by the word; SWAPs by the differing indices whatever EDIT;
COPYs by the changed indices with EDIT (`inside` are the indices of the set within the range). -/
def Obligations.ReportsMakeAndPlaceItems : Prop :=
  (∀ (ns : NoticeState) (item : Notice),
    (∀ before e after, ns.queue = before ++ e :: after → item.kind = .change → e.kind = .change → e.sent = none →
      e.refId = item.refId → (∀ x ∈ before, ¬(x.kind = .change ∧ x.sent = none ∧ x.refId = item.refId)) →
      ns.place item =
        { ns with
          queue := before ++
            { e with first := min e.first item.first, last := max e.last item.last, gen := item.gen,
                     cause := if item.cause = e.cause then e.cause else 15 } :: after }) ∧
    (item.kind ≠ .change ∨ (∀ x ∈ ns.queue, ¬(x.kind = .change ∧ x.sent = none ∧ x.refId = item.refId)) →
      (ns.queue.length < 8 → ns.place item = { ns with queue := ns.queue ++ [item] }) ∧
      (8 ≤ ns.queue.length →
        ns.place item = { ns with lost := (ns.place item).lost } ∧
        (ns.place item).lost.toNat = min 255 (ns.lost.toNat + 1)))) ∧
  ∀ (q : Port) (sub : Subscription),
    (∀ area first last p,
      (Report.commit area first last p).reaches q sub =
        if sub.area = area ∧ first ≤ sub.last ∧ sub.first ≤ last ∧ (area = .prm → sub.edit = true) ∧
            (sub.noself = false ∨ q ≠ p) then
          some (max first sub.first, min last sub.last)
        else none) ∧
    (∀ word, (Report.input word).reaches q sub =
      if sub.area = .inp ∧ sub.first ≤ word ∧ word ≤ sub.last then some (word, word) else none) ∧
    ∀ indices : List Nat,
      indices.Pairwise (· < ·) →
      let inside := indices.filter fun i => sub.first ≤ i && i ≤ sub.last
      (sub.area ≠ .prm ∨ inside = [] →
        (Report.swap indices).reaches q sub = none ∧ (Report.copy indices).reaches q sub = none) ∧
      ∀ low high, sub.area = .prm → low ∈ inside → high ∈ inside → (∀ i ∈ inside, low ≤ i ∧ i ≤ high) →
        (Report.swap indices).reaches q sub = some (low, high) ∧
        (Report.copy indices).reaches q sub = if sub.edit then some (low, high) else none

/-! ### The field -/

/-- INPUT_TRANSITION: away from the settled level a measurement starts from 0, or, with a filter time of 0, the line settles
at once; back to the settled level the measurement is cancelled, with no claim. MEASUREMENT_EXPIRY, once the held time has
reached the filter time: the line settles at the candidate level. Settling hands the update over, holds it back behind the
waiting claim, or cancels the one held back, by the update state. -/
def Obligations.InputLineIsFiltered : Prop :=
  (∀ (n : Line) (level : Bool) (s : State), s.resetLow = false → level ≠ (s.line n).level →
    ((s.line n).measuring.isSome = true →
      ∃ t, exec (.inputTransition n level) s = .next t ∧ t = { s with lines := t.lines } ∧
        (∀ m, m ≠ n → t.line m = s.line m) ∧ t.line n = { s.line n with level := level, measuring := none }) ∧
    ((s.line n).measuring = none → level ≠ (s.line n).settled → 1 ≤ (s.image.liveWord n.val).toNat →
      ∃ t, exec (.inputTransition n level) s = .next t ∧ t = { s with lines := t.lines } ∧
        (∀ m, m ≠ n → t.line m = s.line m) ∧
        t.line n = { s.line n with level := level, measuring := some { candidate := level, held := 0 } }) ∧
    ((s.line n).measuring = none → level ≠ (s.line n).settled → (s.image.liveWord n.val).toNat = 0 →
      ∃ t, exec (.inputTransition n level) s = .next t ∧ t = { s with lines := t.lines, claims := t.claims } ∧
        (∀ m, m ≠ n → t.line m = s.line m) ∧
        t.line n =
          { s.line n with level := level, settled := level, measuring := none, update := (t.line n).update } ∧
        ((s.line n).update = .none →
          (t.line n).update = .waiting ∧ t.claims = s.claims ++ [[.inputUpdate n level]]) ∧
        ((s.line n).update = .waiting → (t.line n).update = .waitingHeld ∧ t.claims = s.claims) ∧
        ((s.line n).update = .waitingHeld → (t.line n).update = .waiting ∧ t.claims = s.claims))) ∧
  ∀ (n : Line) (s : State) (m : Measurement), s.resetLow = false → (s.line n).measuring = some m →
    (s.image.liveWord n.val).toNat ≤ m.held →
    ∃ t, exec (.measurementExpiry n) s = .next t ∧ t = { s with lines := t.lines, claims := t.claims } ∧
      (∀ k, k ≠ n → t.line k = s.line k) ∧
      t.line n = { s.line n with settled := m.candidate, measuring := none, update := (t.line n).update } ∧
      ((s.line n).update = .none →
        (t.line n).update = .waiting ∧ t.claims = s.claims ++ [[.inputUpdate n m.candidate]]) ∧
      ((s.line n).update = .waiting → (t.line n).update = .waitingHeld ∧ t.claims = s.claims) ∧
      ((s.line n).update = .waitingHeld → (t.line n).update = .waiting ∧ t.claims = s.claims)

/-- INPUT_UPDATE: the line's bit of IN takes the level, every other word and bit and the generation stay; an update held back
is handed over now. Each port with its bit at 1 receives one CHANGE item, of the line's word, with cause 8, for each of its
subscriptions that the word lies in, in the order of their ids; a port that receives none is as it was. -/
def Obligations.InputUpdateWritesItsBit : Prop :=
  ∀ (n : Line) (level : Bool) (s : State) (before after : List Claim) (later : List (List Claim)),
    s.resetLow = false → Oldest s (.inputUpdate n level) before after later →
    (∀ c ∈ before, Claim.isInputOf n c = false) →
    ∃ t, exec (.inputUpdate n) s = .next t ∧
      t = { s with image := t.image, claims := t.claims, lines := t.lines, ports := t.ports } ∧
      t.image.inputBit n = level ∧ (∀ m, m ≠ n → t.image.inputBit m = s.image.inputBit m) ∧
      (∀ r i, r ≠ .inp → t.image.word r i = s.image.word r i) ∧
      t.image.gen = s.image.gen ∧ t.image.live = s.image.live ∧
      (∀ m, m ≠ n → t.line m = s.line m) ∧
      ((s.line n).update = .waiting →
        t.line n = { s.line n with update := .none } ∧ t.claims = claimsLeft before after later) ∧
      ((s.line n).update = .waitingHeld →
        t.line n = { s.line n with update := .waiting } ∧
        t.claims = claimsLeft before after later ++ [[.inputUpdate n (s.line n).settled]]) ∧
      ∀ q,
        (s.enabled q = true → Receives (s.port q).notice (t.port q).notice
          (([0, 1, 2, 3] : List (Fin 4)).filterMap fun i =>
            match (s.port q).notice.subs.get i with
            | none => none
            | some sub =>
              if sub.area = .inp ∧ sub.first ≤ n.val / 16 ∧ n.val / 16 ≤ sub.last then
                some { kind := .change, refId := BitVec.ofNat 8 (i.val + 1), area := .inp, first := n.val / 16,
                       last := n.val / 16, gen := s.image.gen, cause := 8, sent := none }
              else none)) ∧
        t.port q =
          { s.port q with tx := { (s.port q).tx with slot := (t.port q).tx.slot }, session := (t.port q).session
                          notice := (t.port q).notice } ∧
        (s.enabled q = false ∨ (∀ i sub, (s.port q).notice.subs.get i = some sub →
            ¬(sub.area = .inp ∧ sub.first ≤ n.val / 16 ∧ n.val / 16 ≤ sub.last)) →
          t.port q = s.port q) ∧
        ∀ i sub, s.enabled q = true → (s.port q).notice.subs.get i = some sub →
          sub.area = .inp → sub.first ≤ n.val / 16 → n.val / 16 ≤ sub.last →
          (∀ j sub2, j ≠ i → (s.port q).notice.subs.get j = some sub2 → sub2.area ≠ .inp) →
          (∀ x ∈ (s.port q).notice.queue, ¬(x.kind = .change ∧ x.sent = none ∧ x.refId = BitVec.ofNat 8 (i.val + 1))) →
          Told true (s.port q) (t.port q)
            { kind := .change, refId := BitVec.ofNat 8 (i.val + 1), area := .inp, first := n.val / 16,
              last := n.val / 16, gen := s.image.gen, cause := 8, sent := none }

/-- REFRESH_TIMER_EXPIRY of an ARMED group with nothing left of its timer: it is in FALLBACK with its timer stopped, its four
lines show the live fallback bits and no other line moves, the image stays, and its owner is told with cause 12. -/
def Obligations.RefreshExpiryFallsBack : Prop :=
  ∀ (g : Group) (s : State), s.resetLow = false → (s.group g).mode = .armed → (s.group g).timer = some 0 →
    OutputsSound s →
    ∃ t, exec (.refreshTimerExpiry g) s = .next t ∧
      t = { s with groups := t.groups, driven := t.driven, ports := t.ports } ∧
      t.group g = { s.group g with mode := .fallback, timer := none } ∧
      (∀ k, k ≠ g → t.group k = s.group k) ∧
      (∀ n : Fin 32, n.val / 4 = g.val →
        t.driven.get n = (s.image.liveWord (48 + g.val / 4)).getLsbD (n.val % 16)) ∧
      (∀ n : Fin 32, n.val / 4 ≠ g.val → t.driven.get n = s.driven.get n) ∧
      (∀ q : Port, q.val ≠ (s.group g).owner.toNat → t.port q = s.port q) ∧
      ∀ q : Port, q.val = (s.group g).owner.toNat →
        Told (s.enabled q) (s.port q) (t.port q)
          { kind := .fallback, refId := BitVec.ofNat 8 g.val, area := .out, first := g.val / 4, last := g.val / 4,
            gen := s.image.gen, cause := 12, sent := none }

/-! ### The commit arbiter -/

/-- COMMIT that is neither stale nor held: the words of the range and no others change, by the staged words of a WRITE or bit
by bit under the pairs of an MWRITE, the generation rises by 1, and FIN OK with the new generation is formed. -/
def Obligations.CommitWritesItsWords : Prop :=
  ∀ (p : Port) (s : State) (op : WriteOp) (region : Region) (first count : Nat) (before after : List Claim)
      (later : List (List Claim)) (x : Transfer),
    s.resetLow = false → Oldest s (.commit p op region first count) before after later →
    (∀ c ∈ before, Claim.isCommitOf p c = false) → region ≠ .prm s.image.live → 1 ≤ count →
    first + count ≤ region.area.size →
    (∀ h ∈ s.holds, h.owner ≠ p → ¬h.meets region.area first count) →
    (s.port p).session = .committing → (s.port p).transfer = some x → x.closing = false → (s.port p).tx.noFin →
    ∃ t, exec (.commit p) s = .next t ∧
      t = { s with image := t.image, claims := t.claims, ports := t.ports, groups := t.groups, driven := t.driven } ∧
      (region ≠ .out → t.groups = s.groups ∧ t.driven = s.driven) ∧
      t.claims = claimsLeft before after later ∧
      t.image.gen = s.image.gen + 1 ∧ t.image.live = s.image.live ∧
      (∀ r i, r ≠ region ∨ i < first ∨ first + count ≤ i → t.image.word r i = s.image.word r i) ∧
      (op = .write → ∀ j < count, t.image.word region (first + j) = (s.port p).buffer.getD j 0) ∧
      (op = .mwrite → ∀ j < count, ∀ b < 16,
        (t.image.word region (first + j)).getLsbD b =
          match ((s.port p).buffer.getD (2 * j) 0).getLsbD b, ((s.port p).buffer.getD (2 * j + 1) 0).getLsbD b with
          | false, false => (s.image.word region (first + j)).getLsbD b
          | true, false => true
          | false, true => false
          | true, true => !(s.image.word region (first + j)).getLsbD b) ∧
      (t.port p).tx.frames = (s.port p).tx.joined (finFrame x.tag 0 (s.image.gen + 1) 0) ∧
      t.port p =
        { s.port p with tx := (t.port p).tx, tSeg := none, tAck := none, transfer := some { x with closing := true }
                        notice := (t.port p).notice } ∧
      ∀ q, q ≠ p →
        t.port q =
          { s.port q with tx := { (s.port q).tx with slot := (t.port q).tx.slot }, session := (t.port q).session
                          notice := (t.port q).notice }

/-- COMMIT that is stale (its target bank is live) or held (another port's entry overlaps): no word, no generation, no other
port, no group and no line changes, and FIN STALE, or FIN HELD with the lowest such id, is formed. Stale comes first. -/
def Obligations.CommitIsRefused : Prop :=
  ∀ (p : Port) (s : State) (op : WriteOp) (region : Region) (first count : Nat) (before after : List Claim)
      (later : List (List Claim)) (x : Transfer),
    s.resetLow = false → Oldest s (.commit p op region first count) before after later →
    (∀ c ∈ before, Claim.isCommitOf p c = false) → 1 ≤ count →
    (s.port p).session = .committing → (s.port p).transfer = some x → x.closing = false → (s.port p).tx.noFin →
    let refusedWith (outcome detail : Byte) : Prop :=
      ∃ t, exec (.commit p) s = .next t ∧ t = { s with claims := t.claims, ports := t.ports } ∧
        t.claims = claimsLeft before after later ∧ (∀ q, q ≠ p → t.port q = s.port q) ∧
        (t.port p).tx.frames = (s.port p).tx.joined (finFrame x.tag outcome 0 detail) ∧
        t.port p =
          { s.port p with tx := (t.port p).tx, tSeg := none, tAck := none, transfer := some { x with closing := true } }
    (region = .prm s.image.live → refusedWith 2 0) ∧
    (region ≠ .prm s.image.live →
      ∀ id, LowestId s.holds (fun h => h.owner ≠ p ∧ h.meets region.area first count) id → refusedWith 1 id)

/-- COMMIT after a port reset of its port: carried out all the same, with the generation raised and the words written, or
refused as stale or held with the image, the other ports, the groups and the lines as they were; no FIN is formed in either
case, the record stays, the staged words are emptied and the port is at rest. -/
def Obligations.CommitOfAResetPortIsSilent : Prop :=
  ∀ (p : Port) (s : State) (op : WriteOp) (region : Region) (first count : Nat) (before after : List Claim)
      (later : List (List Claim)),
    s.resetLow = false → Oldest s (.commit p op region first count) before after later →
    (∀ c ∈ before, Claim.isCommitOf p c = false) → 1 ≤ count → first + count ≤ region.area.size →
    (s.port p).session = .committing → (s.port p).transfer = none →
    let refused : Prop :=
      region = .prm s.image.live ∨ ∃ h ∈ s.holds, h.owner ≠ p ∧ h.meets region.area first count
    ∃ t, exec (.commit p) s = .next t ∧ t.claims = claimsLeft before after later ∧
      (¬refused →
        t.image.gen = s.image.gen + 1 ∧
        (∀ r i, r ≠ region ∨ i < first ∨ first + count ≤ i → t.image.word r i = s.image.word r i) ∧
        (op = .write → ∀ j < count, t.image.word region (first + j) = (s.port p).buffer.getD j 0) ∧
        (op = .mwrite → ∀ j < count, t.image.word region (first + j) =
          maskWord (s.image.word region (first + j)) ((s.port p).buffer.getD (2 * j) 0)
            ((s.port p).buffer.getD (2 * j + 1) 0))) ∧
      (refused → t = { s with claims := t.claims, ports := t.ports } ∧ ∀ q, q ≠ p → t.port q = s.port q) ∧
      (t.port p).buffer = [] ∧ (t.port p).transfer = none ∧ (t.port p).record = (s.port p).record ∧
      ((t.port p).session = .idle ∨ (t.port p).session = .notifying) ∧
      ∀ f ∈ (t.port p).tx.frames, f.kind = .fin → f ∈ (s.port p).tx.frames

/-- COMMIT OK, the reports: each port with its bit at 1, the committing port among them, receives one CHANGE item, with the
common range, the new generation and the committing port as cause, for each of its subscriptions that is reached, in the
order of their ids, merged, queued or lost as R119 says; the committing port's own with NOSELF are not reached. Another
port with its bit at 0, or without a reached subscription, is as it was, and the committing port's notices are. -/
def Obligations.CommitIsReported : Prop :=
  ∀ (p : Port) (s : State) (op : WriteOp) (region : Region) (first count : Nat) (before after : List Claim)
      (later : List (List Claim)),
    s.resetLow = false → Oldest s (.commit p op region first count) before after later →
    (∀ c ∈ before, Claim.isCommitOf p c = false) → region ≠ .prm s.image.live → 1 ≤ count →
    (∀ h ∈ s.holds, h.owner ≠ p → ¬h.meets region.area first count) →
    let reached (sub : Subscription) : Prop :=
      sub.area = region.area ∧ first ≤ sub.last ∧ sub.first ≤ first + count - 1 ∧
        (region.area = .prm → sub.edit = true)
    ∃ t, exec (.commit p) s = .next t ∧
      (∀ q, s.enabled q = true → Receives (s.port q).notice (t.port q).notice
        (([0, 1, 2, 3] : List (Fin 4)).filterMap fun i =>
          match (s.port q).notice.subs.get i with
          | none => none
          | some sub =>
            if sub.area = region.area ∧ first ≤ sub.last ∧ sub.first ≤ first + count - 1 ∧
                (region.area = .prm → sub.edit = true) ∧ (sub.noself = false ∨ q ≠ p) then
              some { kind := .change, refId := BitVec.ofNat 8 (i.val + 1), area := region.area,
                     first := max first sub.first, last := min (first + count - 1) sub.last,
                     gen := s.image.gen + 1, cause := BitVec.ofNat 8 p.val, sent := none }
            else none)) ∧
      (s.enabled p = false → SameNotices (s.port p).notice (t.port p).notice) ∧
      (∀ q, q ≠ p →
        s.enabled q = false ∨ (∀ i sub, (s.port q).notice.subs.get i = some sub → ¬reached sub) →
        t.port q = s.port q) ∧
      (∀ q i sub, q ≠ p → s.enabled q = true → (s.port q).notice.subs.get i = some sub → reached sub →
        (∀ j sub2, j ≠ i → (s.port q).notice.subs.get j = some sub2 → ¬reached sub2) →
        (∀ x ∈ (s.port q).notice.queue, ¬(x.kind = .change ∧ x.sent = none ∧ x.refId = BitVec.ofNat 8 (i.val + 1))) →
        Told true (s.port q) (t.port q)
          { kind := .change, refId := BitVec.ofNat 8 (i.val + 1), area := region.area, first := max first sub.first,
            last := min (first + count - 1) sub.last, gen := s.image.gen + 1, cause := BitVec.ofNat 8 p.val,
            sent := none }) ∧
      ((∀ i sub, (s.port p).notice.subs.get i = some sub → reached sub → sub.noself = true) →
        (t.port p).notice.queue.map Notice.entry = (s.port p).notice.queue.map Notice.entry ∧
        (t.port p).notice.lost = (s.port p).notice.lost)

/-- COMMIT OK in OUT: a supervised group is refreshed when its owner commits to its word and writes one of its bits (all bits
for a WRITE, those of the masks for an MWRITE): it is ARMED with its timer afresh, recovered if it was in FALLBACK. No other
group changes, and every line then shows its OUT bit, or its fallback bit in FALLBACK. -/
def Obligations.CommitRefreshesGroups : Prop :=
  ∀ (p : Port) (s : State) (op : WriteOp) (first count : Nat) (before after : List Claim) (later : List (List Claim)),
    s.resetLow = false → Oldest s (.commit p op .out first count) before after later →
    (∀ c ∈ before, Claim.isCommitOf p c = false) → 1 ≤ count →
    (∀ h ∈ s.holds, h.owner ≠ p → ¬h.meets .out first count) →
    ∃ t, exec (.commit p) s = .next t ∧
      (∀ g : Group,
        let refreshes : Prop :=
          (s.group g).mode ≠ .unsupervised ∧ (s.group g).owner.toNat = p.val ∧ first ≤ g.val / 4 ∧
            g.val / 4 < first + count ∧
            (op = .write ∨ ∃ k < 4,
              (((s.port p).buffer.getD (2 * (g.val / 4 - first)) 0).getLsbD (4 * (g.val % 4) + k) ||
                ((s.port p).buffer.getD (2 * (g.val / 4 - first) + 1) 0).getLsbD (4 * (g.val % 4) + k)) = true)
        (refreshes →
          t.group g = { s.group g with mode := .armed, timer := some ((s.group g).refresh.toNat * 50) }) ∧
        (¬refreshes → t.group g = s.group g)) ∧
      ∀ n : Fin 32, t.driven.get n =
        if (t.group (groupOfLine n)).mode = .fallback then
          (s.image.liveWord (48 + n.val / 16)).getLsbD (n.val % 16)
        else (t.image.word .out (n.val / 16)).getLsbD (n.val % 16)

/-- SNAPSHOT: the words of the range as they stand go into the slots with the generation as it stands: those of IN, OUT and WRD,
of PRM the edit bank's under EDIT and the live bank's without, of DIA identity, generation, live bank, holds in use, straps,
group states, counters and lost counts. ACCEPT and then the DAT of segment 0 are formed, and neither the image, the holds nor
another port changes. -/
def Obligations.SnapshotCopiesTheRange : Prop :=
  ∀ (p : Port) (s : State) (area : Area) (edit : Bool) (first count : Nat) (before after : List Claim)
      (later : List (List Claim)) (x : Transfer),
    s.resetLow = false → Oldest s (.snapshot p area edit first count) before after later →
    (∀ c ∈ before, Claim.isSnapshotOf p c = false) →
    (s.port p).session = .sending → (s.port p).transfer = some x → x.closing = false → x.seq = 0 → x.count = count →
    (s.port p).tx.queue.length ≤ 2 →
    ∃ t, exec (.snapshot p) s = .next t ∧ t = { s with claims := t.claims, ports := t.ports } ∧
      t.claims = claimsLeft before after later ∧ (∀ q, q ≠ p → t.port q = s.port q) ∧
      (t.port p).buffer.length = count ∧
      (∀ j < count, ∃ w, (t.port p).buffer[j]? = some w ∧
        (area = .inp → w = s.image.word .inp (first + j)) ∧ (area = .out → w = s.image.word .out (first + j)) ∧
        (area = .wrd → w = s.image.word .wrd (first + j)) ∧
        (area = .prm → edit = true → w = s.image.word (.prm s.image.live.other) (first + j)) ∧
        (area = .prm → edit = false → w = s.image.word (.prm s.image.live) (first + j)) ∧
        (area = .dia →
          (first + j = 0 → w = 0x4120) ∧ (first + j = 1 → w = 0x0103) ∧
          (first + j = 2 → w.toNat = s.image.gen.toNat / 65536) ∧
          (first + j = 3 → w.toNat = s.image.gen.toNat % 65536) ∧
          (first + j = 4 → w = if s.image.live = .bank0 then 0 else 1) ∧
          (first + j = 5 → w = BitVec.ofNat 16 s.holds.length) ∧ (first + j = 6 → w.toNat = s.rateCode.toNat) ∧
          (first + j = 7 → w = if s.parity then 1 else 0) ∧
          (∀ g : Group, first + j = 8 + g.val →
            w = match (s.group g).mode with | .unsupervised => 0 | .armed => 1 | .fallback => 2) ∧
          ∀ q : Port,
            (first + j = 16 + 5 * q.val → w = (s.port q).counters.crcDiscards) ∧
            (first + j = 17 + 5 * q.val → w = (s.port q).counters.framingDiscards) ∧
            (first + j = 18 + 5 * q.val → w = (s.port q).counters.gapDiscards) ∧
            (first + j = 19 + 5 * q.val → w = (s.port q).counters.timeouts) ∧
            (first + j = 20 + 5 * q.val → w = (s.port q).counters.retries) ∧
            (first + j = 36 + q.val → w.toNat = (s.port q).notice.lost.toNat))) ∧
      (t.port p).tx.frames =
        (s.port p).tx.frames ++
          [rspFrame x.request 0x00 (genBytes s.image.gen ++ [BitVec.ofNat 8 (segmentCount x.op count)]),
           readFrame x.tag 0 (t.port p).buffer] ∧
      t.port p =
        { s.port p with tx := (t.port p).tx, buffer := (t.port p).buffer
                        transfer := some { x with snapGen := some s.image.gen } }

/-- SWAP_CLAIM that passes: the banks exchange their roles with every word as it was, the generation rises by 1, groups are
re-evaluated and lines set (R150), running measurements whose filter time changed restart, or settle at once under 0, their
claims standing last (R139), and the port's RSP is DONE with the new generation; after a port reset no RSP is formed (R58).
The reports are stated in BankOperationIsReported. -/
def Obligations.SwapExchangesTheBanks : Prop :=
  ∀ (p : Port) (s : State) (owed : BankRequest) (before after : List Claim) (later : List (List Claim)),
    s.resetLow = false → Oldest s (.swap p) before after later → (∀ c ∈ before, Claim.isSwapOf p c = false) →
    (∀ h ∈ s.holds, h.owner ≠ p → h.area ≠ .prm) → (∀ i < 55, prmValid i (s.image.editWord i) = true) →
    (s.port p).session = .idle → (s.port p).transfer = none → (s.port p).bankRequest = some owed →
    ∃ t, exec (.swapClaim p) s = .next t ∧
      t = { s with image := t.image, claims := t.claims, ports := t.ports, lines := t.lines, groups := t.groups,
                   driven := t.driven, choices := t.choices } ∧
      t.image.live = s.image.live.other ∧ t.image.gen = s.image.gen + 1 ∧
      (∀ r i, t.image.word r i = s.image.word r i) ∧
      (∀ g : Group,
        let owner := s.image.editWord (32 + g.val)
        let refresh := s.image.editWord (40 + g.val)
        let after := owner.toNat ≤ 3 ∧ 1 ≤ refresh.toNat ∧ refresh.toNat ≤ 255
        (owner = (s.group g).owner → refresh = (s.group g).refresh → t.group g = s.group g) ∧
        (owner ≠ (s.group g).owner ∨ refresh ≠ (s.group g).refresh →
          (¬after → t.group g = { mode := .unsupervised, owner := owner, refresh := refresh, timer := none }) ∧
          (after → (s.group g).mode ≠ .fallback →
            t.group g = { mode := .armed, owner := owner, refresh := refresh, timer := some (refresh.toNat * 50) }) ∧
          (after → (s.group g).mode = .fallback →
            t.group g = { s.group g with owner := owner, refresh := refresh }))) ∧
      (∀ n : Fin 32, t.driven.get n =
        if (t.group (groupOfLine n)).mode = .fallback then
          (s.image.editWord (48 + n.val / 16)).getLsbD (n.val % 16)
        else (s.image.word .out (n.val / 16)).getLsbD (n.val % 16)) ∧
      (∀ n : Line,
        ((s.line n).measuring = none ∨ s.image.editWord n.val = s.image.liveWord n.val → t.line n = s.line n) ∧
        ∀ m, (s.line n).measuring = some m → s.image.editWord n.val ≠ s.image.liveWord n.val →
          (s.image.editWord n.val ≠ 0 → t.line n = { s.line n with measuring := some { m with held := 0 } }) ∧
          (s.image.editWord n.val = 0 →
            t.line n =
              { s.line n with
                settled := m.candidate, measuring := none
                update := match (s.line n).update with
                  | .none => .waiting | .waiting => .waitingHeld | .waitingHeld => .waiting })) ∧
      (∃ batch : List Claim,
        t.claims = claimsLeft before after later ++ (if batch = [] then [] else [batch]) ∧ batch.Nodup ∧
        ∀ c, c ∈ batch ↔ ∃ (n : Line) (m : Measurement),
          (s.line n).measuring = some m ∧ s.image.editWord n.val ≠ s.image.liveWord n.val ∧
          s.image.editWord n.val = 0 ∧ (s.line n).update = .none ∧ c = .inputUpdate n m.candidate) ∧
      BankAnswers (s.port p) (t.port p) owed 0x01 (genBytes (s.image.gen + 1)) ∧
      (∀ q, q ≠ p →
        t.port q =
          { s.port q with tx := { (s.port q).tx with slot := (t.port q).tx.slot }, session := (t.port q).session
                          notice := (t.port q).notice })

/-- SWAP_CLAIM or COPY_CLAIM refused: HELD with the lowest id of another port's PRM entry, before any validation; a SWAP
whose edit bank has a bad word among words 0 to 54 INVALID with the first such index. The valid values are those of R43.
Nothing changes but the port's reply, which is not formed after a port reset (R58). -/
def Obligations.BankOperationIsRefused : Prop :=
  (∀ (p : Port) (s : State) (owed : BankRequest) (swaps : Bool) (before after : List Claim) (later : List (List Claim)),
    s.resetLow = false → Oldest s (if swaps then .swap p else .copy p) before after later →
    (∀ c ∈ before, c.port ≠ some p) →
    (s.port p).session = .idle → (s.port p).transfer = none → (s.port p).bankRequest = some owed →
    let refusedWith (code : Byte) (detail : Word) : Prop :=
      ∃ t, exec (if swaps then .swapClaim p else .copyClaim p) s = .next t ∧
        t = { s with claims := t.claims, ports := t.ports } ∧ t.claims = claimsLeft before after later ∧
        (∀ q, q ≠ p → t.port q = s.port q) ∧ SameNotices (s.port p).notice (t.port p).notice ∧
        BankAnswers (s.port p) (t.port p) owed code (wordBytes detail)
    (∀ id, LowestId s.holds (fun h => h.owner ≠ p ∧ h.area = .prm) id → refusedWith 0x15 (id.setWidth 16)) ∧
    ((∀ h ∈ s.holds, h.owner ≠ p → h.area ≠ .prm) → swaps = true →
      ∀ i < 55, prmValid i (s.image.editWord i) = false → (∀ j < i, prmValid j (s.image.editWord j) = true) →
        refusedWith 0x1B (BitVec.ofNat 16 i))) ∧
  ∀ (i : Nat) (w : Word), prmValid i w = true ↔
    (i < 32 → w.toNat ≤ 255) ∧ (32 ≤ i → i < 40 → w.toNat ≤ 3 ∨ w.toNat = 15) ∧
      (40 ≤ i → i < 48 → w.toNat ≤ 255) ∧ (50 ≤ i → i < 52 → 50 ≤ w.toNat ∧ w.toNat ≤ 10000) ∧
      (i = 52 → 20 ≤ w.toNat ∧ w.toNat ≤ 5000) ∧ (i = 53 → w.toNat ≤ 7) ∧ (i = 54 → w.toNat ≤ 15)

/-- COPY_CLAIM that passes: every word of the live bank stands in the edit bank, the live bank, its indicator, the groups, the
lines and the filters stay, the generation rises by 1, and the RSP is DONE with the new generation; after a port reset no
RSP is formed (R58). The reports are stated in BankOperationIsReported. -/
def Obligations.CopyFillsTheEditBank : Prop :=
  ∀ (p : Port) (s : State) (owed : BankRequest) (before after : List Claim) (later : List (List Claim)),
    s.resetLow = false → Oldest s (.copy p) before after later → (∀ c ∈ before, Claim.isCopyOf p c = false) →
    (∀ h ∈ s.holds, h.owner ≠ p → h.area ≠ .prm) →
    (s.port p).session = .idle → (s.port p).transfer = none → (s.port p).bankRequest = some owed →
    ∃ t, exec (.copyClaim p) s = .next t ∧
      t = { s with image := t.image, claims := t.claims, ports := t.ports } ∧
      t.claims = claimsLeft before after later ∧
      t.image.live = s.image.live ∧ t.image.gen = s.image.gen + 1 ∧
      (∀ i, t.image.word (.prm s.image.live.other) i = s.image.word (.prm s.image.live) i) ∧
      (∀ r i, r ≠ .prm s.image.live.other → t.image.word r i = s.image.word r i) ∧
      BankAnswers (s.port p) (t.port p) owed 0x01 (genBytes (s.image.gen + 1)) ∧
      (∀ q, q ≠ p →
        t.port q =
          { s.port q with tx := { (s.port q).tx with slot := (t.port q).tx.slot }, session := (t.port q).session
                          notice := (t.port q).notice })

/-- SWAP_CLAIM or COPY_CLAIM that passes, the reports, under the notice-enable bits of the bank then live: the differing
indices of the banks concern PRM subscriptions, for a COPY those with EDIT. With the bit at 0 a port is told nothing, and an
NTC still in its slot is taken back, with the port at rest, where the SWAP cleared the bit. With the bit at 1 a port with no
subscription concerned is as it was, or has delivery resumed where the SWAP set the bit; where one is concerned that has no
unsent entry, one CHANGE item over the differing indices in its range, with the new generation and cause 9 or 10, is queued.
Where the bit was 1 before too, such an item for each subscription concerned is merged, queued or lost as R119 says, in the
order of their ids. The order of report and resumption, free by log entry 9, is left open. -/
def Obligations.BankOperationIsReported : Prop :=
  ∀ (p : Port) (s : State) (swaps : Bool) (before after : List Claim) (later : List (List Claim)),
    s.resetLow = false → Oldest s (if swaps then .swap p else .copy p) before after later →
    (∀ c ∈ before, c.port ≠ some p) → (∀ h ∈ s.holds, h.owner ≠ p → h.area ≠ .prm) →
    (swaps = true → ∀ i < 55, prmValid i (s.image.editWord i) = true) →
    let concerns (sub : Subscription) (i : Nat) : Prop :=
      sub.area = .prm ∧ (swaps = false → sub.edit = true) ∧ sub.first ≤ i ∧ i ≤ sub.last ∧ i < 128 ∧
        s.image.liveWord i ≠ s.image.editWord i
    let bit (q : Port) : Bool := (if swaps then s.image.editWord 54 else s.image.liveWord 54).getLsbD q.val
    ∃ t, exec (if swaps then .swapClaim p else .copyClaim p) s = .next t ∧
      (∀ q, bit q = false →
        SameNotices (s.port q).notice (t.port q).notice ∧
        (q ≠ p →
          (s.enabled q = true → (s.port q).tx.slot.isSome = true →
            t.port q =
              { s.port q with
                tx := { (s.port q).tx with slot := none }
                session := if (s.port q).session = .notifying then .idle else (s.port q).session }) ∧
          (s.enabled q = false ∨ (s.port q).tx.slot = none → t.port q = s.port q))) ∧
      (∀ q, bit q = true → (∀ i sub k, (s.port q).notice.subs.get i = some sub → ¬concerns sub k) →
        SameNotices (s.port q).notice (t.port q).notice ∧
        (q ≠ p →
          (s.enabled q = true ∨ (s.port q).free = false ∨ (s.port q).notice.paused = true ∨
              (s.port q).notice.queue = [] → t.port q = s.port q) ∧
          (s.enabled q = false → (s.port q).free = true → (s.port q).notice.paused = false →
            (s.port q).notice.queue ≠ [] →
            (t.port q).session = .notifying ∧
            t.port q =
              { s.port q with tx := { (s.port q).tx with slot := (t.port q).tx.slot }, session := .notifying
                              notice := (t.port q).notice }))) ∧
      (∀ q, bit q = true → s.enabled q = true → Receives (s.port q).notice (t.port q).notice
        (([0, 1, 2, 3] : List (Fin 4)).filterMap fun i =>
          match (s.port q).notice.subs.get i with
          | none => none
          | some sub =>
            let inside := (List.range 128).filter fun k =>
              sub.area = .prm && (swaps || sub.edit) && sub.first ≤ k && k ≤ sub.last &&
                s.image.liveWord k ≠ s.image.editWord k
            match inside.head?, inside.getLast? with
            | some low, some high =>
              some { kind := .change, refId := BitVec.ofNat 8 (i.val + 1), area := .prm, first := low, last := high,
                     gen := s.image.gen + 1, cause := if swaps then 9 else 10, sent := none }
            | _, _ => none)) ∧
      ∀ q i sub low high, bit q = true → (s.port q).notice.subs.get i = some sub → concerns sub low →
        concerns sub high → (∀ k, concerns sub k → low ≤ k ∧ k ≤ high) →
        (∀ j sub2 k, j ≠ i → (s.port q).notice.subs.get j = some sub2 → ¬concerns sub2 k) →
        (∀ x ∈ (s.port q).notice.queue,
          ¬(x.kind = .change ∧ x.sent = none ∧ x.refId = BitVec.ofNat 8 (i.val + 1))) →
        Queued (s.port q).notice (t.port q).notice
          { kind := .change, refId := BitVec.ofNat 8 (i.val + 1), area := .prm, first := low, last := high,
            gen := s.image.gen + 1, cause := if swaps then 9 else 10, sent := none } ∧
        (q ≠ p →
          t.port q =
            { s.port q with tx := { (s.port q).tx with slot := (t.port q).tx.slot }, session := (t.port q).session
                            notice := (t.port q).notice })

/-! ### What holds of every step -/

/-- The image changes at the taking of a commit, an input update, a SWAP or a COPY and at the release of RESET_N, and at no
other command; the generation rises by 1 or stays at the first four but an input update, and is 0 at the release. -/
def Obligations.OnlyClaimsChangeTheImage : Prop :=
  ∀ (c : Instr) (s t : State), exec c s = .next t →
    ((∀ p, c ≠ .commit p) → (∀ n, c ≠ .inputUpdate n) → (∀ p, c ≠ .swapClaim p) → (∀ p, c ≠ .copyClaim p) →
      (∀ rate par, c ≠ .resetNRelease rate par) → t.image = s.image) ∧
    (t.image.gen = s.image.gen ∨
      t.image.gen = s.image.gen + 1 ∧ (∃ p, c = .commit p ∨ c = .swapClaim p ∨ c = .copyClaim p) ∨
      t.image.gen = 0 ∧ ∃ rate par, c = .resetNRelease rate par)

/-- Nothing a master sends reaches another port, the image, a line, a group or a strap: a frame changes its own port, and at
most the claims and the Hold Table besides. -/
def Obligations.MasterReachesOnlyItsPort : Prop :=
  ∀ (i : Instr) (p : Port) (kind : MasterKind) (payload : List Byte) (s t : State),
    frameOf i = some (p, kind, payload) → exec i s = .next t →
    (∀ q, q ≠ p → t.port q = s.port q) ∧
      t = { s with ports := t.ports, claims := t.claims, holds := t.holds, nextId := t.nextId }

/-- A commit writes no index that a hold of another port covers at that moment. -/
def Obligations.HeldWordIsNotWritten : Prop :=
  ∀ (p : Port) (s t : State) (h : Hold) (region : Region) (i : Nat), exec (.commit p) s = .next t → h ∈ s.holds →
    h.owner ≠ p → h.area = region.area → h.first ≤ i → i ≤ h.last → t.image.word region i = s.image.word region i

/-- Every step keeps the image in the canonical form that the model chose for it (log entry 16), and words 0 to 54 of the
live bank at their valid values of R43. -/
def Obligations.StepKeepsImageSound : Prop :=
  ∀ s t : State, ImageSound s → step s = .next t → ImageSound t

/-- Every step keeps the Hold Table within its limits and the next-id counter at an id no entry uses. -/
def Obligations.StepKeepsHoldsSound : Prop :=
  ∀ s t : State, HoldsSound s → step s = .next t → HoldsSound t

/-- Every step keeps at most 4 frames in a session frame queue, and on the line the bytes of the frame in progress. -/
def Obligations.StepKeepsFramesSound : Prop :=
  ∀ s t : State, FramesSound s → step s = .next t → FramesSound t

/-- Every step keeps each notice queue within its limits, with only its head sent, and NOTIFYING with a notice
outstanding. -/
def Obligations.StepKeepsNoticesSound : Prop :=
  ∀ s t : State, NoticesSound s → step s = .next t → NoticesSound t

/-- Every step keeps each port's claims to what its session waits for, at most one, its Transfer Buffer empty at rest, and
its timers running only in the session states that use them, never while closing. -/
def Obligations.StepKeepsSessionsSound : Prop :=
  ∀ s t : State, SessionsSound s → step s = .next t → SessionsSound t

/-- Every step keeps each line's filter, update state, claim and IN bit in step, while the live filter times are what they
are. -/
def Obligations.StepKeepsInputsSound : Prop :=
  ∀ s t : State, InputsSound s → step s = .next t → InputsSound t

/-- Every step keeps each output line at the level R141 gives and each group's record as R142 says. -/
def Obligations.StepKeepsOutputsSound : Prop :=
  ∀ s t : State, OutputsSound s → step s = .next t → OutputsSound t

end
end

