-- ==== Sys2Proof/Laws/Memory.lean ====
section
/-! SUPPORT. What each operation over the image's words can do: the word read back, and the canonical form kept. -/

namespace Sys2Proof.Machine

/-! ### Words read back -/

theorem Memory.read_erase (reset : Nat → Word) (m : Memory) (a x : Nat) :
    Memory.read reset (m.erase a) x = if x = a then reset a else Memory.read reset m x := by
  induction m with
  | nil => simp [Memory.erase, Memory.read]; intro h; rw [h]
  | cons e m ih =>
    obtain ⟨k, w⟩ := e
    simp only [Memory.erase] at ih ⊢
    by_cases hk : k = a
    · subst hk
      simp only [ne_eq, not_true_eq_false, decide_false, Bool.false_eq_true, not_false_eq_true,
        List.filter_cons_of_neg, ih, Memory.read]
      by_cases hx : x = k
      · simp [hx]
      · simp [hx, Ne.symm hx]
    · simp only [ne_eq, hk, not_false_eq_true, decide_true, List.filter_cons_of_pos, Memory.read]
      by_cases hx : k = x
      · subst hx; simp [hk]
      · simp only [hx, if_false]; exact ih

theorem Memory.read_insert (reset : Nat → Word) (m : Memory) (a x : Nat) (v : Word) :
    Memory.read reset (m.insert a v) x = if x = a then v else Memory.read reset m x := by
  induction m with
  | nil =>
    simp only [Memory.insert, Memory.read]
    by_cases h : x = a
    · simp [h]
    · simp [h, Ne.symm h]
  | cons e m ih =>
    obtain ⟨k, w⟩ := e
    simp only [Memory.insert]
    split
    · simp only [Memory.read]
      by_cases h : x = a
      · simp [h]
      · simp [h, Ne.symm h]
    · split
      · next h =>
        subst h
        simp only [Memory.read]
        by_cases h : x = k
        · simp [h]
        · simp [h, Ne.symm h]
      · next h1 h2 =>
        simp only [Memory.read, ih]
        by_cases hx : k = x
        · subst hx; simp [h2]
        · simp [hx]

/-- A write sets the word at its index and no other. -/
theorem Memory.read_write (reset : Nat → Word) (m : Memory) (a x : Nat) (v : Word) :
    Memory.read reset (m.write reset a v) x = if x = a then v else Memory.read reset m x := by
  unfold Memory.write
  split
  · next h => rw [Memory.read_erase, h]
  · exact Memory.read_insert reset m a x v

@[simp] theorem Image.region_setRegion_same (im : Image) (r : Region) (m : Memory) :
    (im.setRegion r m).region r = m := by
  rcases r with _ | _ | _ | b <;> first | rfl | (cases b <;> rfl)

theorem Image.region_setRegion_other (im : Image) (r r' : Region) (m : Memory) (h : r' ≠ r) :
    (im.setRegion r m).region r' = im.region r' := by
  rcases r with _ | _ | _ | b <;> rcases r' with _ | _ | _ | b' <;>
    first
    | rfl
    | exact absurd rfl h
    | (cases b <;> rfl)
    | (cases b' <;> rfl)
    | (cases b <;> cases b' <;> first | rfl | exact absurd rfl h)

@[simp] theorem Image.live_setRegion (im : Image) (r : Region) (m : Memory) : (im.setRegion r m).live = im.live := by
  rcases r with _ | _ | _ | b <;> first | rfl | (cases b <;> rfl)

@[simp] theorem Image.gen_setRegion (im : Image) (r : Region) (m : Memory) : (im.setRegion r m).gen = im.gen := by
  rcases r with _ | _ | _ | b <;> first | rfl | (cases b <;> rfl)

/-- Writing one word of a region sets that word and no other. -/
theorem Image.word_writeWord (im : Image) (r r' : Region) (i j : Nat) (v : Word) :
    (im.writeWord r i v).word r' j = if r' = r ∧ j = i ∧ i < r.area.size then v else im.word r' j := by
  unfold Image.writeWord
  split
  · next hi =>
    by_cases h : r' = r
    · subst h
      simp only [Image.word, Image.region_setRegion_same, Memory.read_write, hi, and_true, true_and]
    · simp only [Image.word, Image.region_setRegion_other _ _ _ _ h, h, false_and, if_false]
  · next hi => simp [hi]

@[simp] theorem Image.live_writeWord (im : Image) (r : Region) (i : Nat) (v : Word) :
    (im.writeWord r i v).live = im.live := by
  unfold Image.writeWord; split <;> simp

@[simp] theorem Image.gen_writeWord (im : Image) (r : Region) (i : Nat) (v : Word) :
    (im.writeWord r i v).gen = im.gen := by
  unfold Image.writeWord; split <;> simp

@[simp] theorem Image.live_writeWords (im : Image) (r : Region) (i : Nat) (vs : List Word) :
    (im.writeWords r i vs).live = im.live := by
  induction vs generalizing im i with
  | nil => rfl
  | cons v vs ih => rw [Image.writeWords, ih, Image.live_writeWord]

@[simp] theorem Image.gen_writeWords (im : Image) (r : Region) (i : Nat) (vs : List Word) :
    (im.writeWords r i vs).gen = im.gen := by
  induction vs generalizing im i with
  | nil => rfl
  | cons v vs ih => rw [Image.writeWords, ih, Image.gen_writeWord]

/-- Writing a run of words that lies in its area sets the words of the run, in order, and no other. -/
theorem Image.word_writeWords (im : Image) (r r' : Region) (i j : Nat) (vs : List Word)
    (inside : i + vs.length ≤ r.area.size) :
    (im.writeWords r i vs).word r' j =
      if r' = r ∧ i ≤ j ∧ j < i + vs.length then vs.getD (j - i) 0 else im.word r' j := by
  induction vs generalizing im i with
  | nil =>
    have : ¬(r' = r ∧ i ≤ j ∧ j < i + 0) := by omega
    simp only [Image.writeWords, List.length_nil, this, if_false]
  | cons v vs ih =>
    simp only [List.length_cons] at inside
    rw [Image.writeWords, ih _ _ (by omega), Image.word_writeWord]
    by_cases hr : r' = r
    · subst hr
      simp only [true_and, List.length_cons]
      by_cases hj : j = i
      · subst hj
        have h1 : ¬(j + 1 ≤ j ∧ j < j + 1 + vs.length) := by omega
        have h2 : j < r'.area.size := by omega
        have h3 : j ≤ j ∧ j < j + (vs.length + 1) := by omega
        simp only [h1, if_false, h2, and_self, if_true, h3, Nat.sub_self, List.getD_cons_zero]
      · have h2 : ¬(j = i ∧ i < r'.area.size) := by omega
        simp only [h2, if_false]
        by_cases h : i + 1 ≤ j ∧ j < i + 1 + vs.length
        · have h3 : i ≤ j ∧ j < i + (vs.length + 1) := by omega
          have h4 : j - i = (j - (i + 1)) + 1 := by omega
          simp only [h, and_self, if_true, h3, h4, List.getD_cons_succ]
        · have h3 : ¬(i ≤ j ∧ j < i + (vs.length + 1)) := by omega
          simp only [h, if_false, h3]
    · simp only [hr, false_and, if_false]

@[simp] theorem Image.live_maskWords (im : Image) (r : Region) (i : Nat) (ps : List (Word × Word)) :
    (im.maskWords r i ps).live = im.live := by
  induction ps generalizing im i with
  | nil => rfl
  | cons v vs ih => rw [Image.maskWords, ih, Image.live_writeWord]

@[simp] theorem Image.gen_maskWords (im : Image) (r : Region) (i : Nat) (ps : List (Word × Word)) :
    (im.maskWords r i ps).gen = im.gen := by
  induction ps generalizing im i with
  | nil => rfl
  | cons v vs ih => rw [Image.maskWords, ih, Image.gen_writeWord]

/-- Applying a run of pairs that lies in its area changes each word of the run by its pair, and no other word. -/
theorem Image.word_maskWords (im : Image) (r r' : Region) (i j : Nat) (ps : List (Word × Word))
    (inside : i + ps.length ≤ r.area.size) :
    (im.maskWords r i ps).word r' j =
      if r' = r ∧ i ≤ j ∧ j < i + ps.length then
        maskWord (im.word r j) (ps.getD (j - i) (0, 0)).1 (ps.getD (j - i) (0, 0)).2
      else im.word r' j := by
  induction ps generalizing im i with
  | nil =>
    have : ¬(r' = r ∧ i ≤ j ∧ j < i + 0) := by omega
    simp only [Image.maskWords, List.length_nil, this, if_false]
  | cons v vs ih =>
    obtain ⟨a, b⟩ := v
    simp only [List.length_cons] at inside
    rw [Image.maskWords, ih _ _ (by omega), Image.word_writeWord, Image.word_writeWord]
    by_cases hr : r' = r
    · subst hr
      simp only [true_and, List.length_cons]
      by_cases hj : j = i
      · subst hj
        have h1 : ¬(j + 1 ≤ j ∧ j < j + 1 + vs.length) := by omega
        have h2 : j < r'.area.size := by omega
        have h3 : j ≤ j ∧ j < j + (vs.length + 1) := by omega
        simp only [h1, if_false, h2, and_self, if_true, h3, Nat.sub_self, List.getD_cons_zero]
      · have h2 : ¬(j = i ∧ i < r'.area.size) := by omega
        simp only [h2, if_false]
        by_cases h : i + 1 ≤ j ∧ j < i + 1 + vs.length
        · have h3 : i ≤ j ∧ j < i + (vs.length + 1) := by omega
          have h4 : j - i = (j - (i + 1)) + 1 := by omega
          simp only [h, and_self, if_true, h3, h4, List.getD_cons_succ]
        · have h3 : ¬(i ≤ j ∧ j < i + (vs.length + 1)) := by omega
          simp only [h, if_false, h3]
    · simp only [hr, false_and, if_false]

/-- One bit of a word under a pair of masks (R12). -/
theorem getLsbD_maskWord (old set clear : Word) (b : Nat) (hb : b < 16) :
    (maskWord old set clear).getLsbD b =
      match set.getLsbD b, clear.getLsbD b with
      | false, false => old.getLsbD b
      | true, false => true
      | false, true => false
      | true, true => !old.getLsbD b := by
  unfold maskWord
  simp only [BitVec.getLsbD_or, BitVec.getLsbD_and, BitVec.getLsbD_not, hb, decide_true, Bool.true_and]
  cases set.getLsbD b <;> cases clear.getLsbD b <;> cases old.getLsbD b <;> rfl

/-! ### The canonical form -/

theorem Memory.wfFrom_mono {reset : Nat → Word} {size b b' : Nat} {m : Memory} (h : b' ≤ b)
    (wf : Memory.wfFrom reset size b m = true) : Memory.wfFrom reset size b' m = true := by
  cases m with
  | nil => rfl
  | cons e m =>
    obtain ⟨k, w⟩ := e
    simp only [Memory.wfFrom, Bool.and_eq_true, decide_eq_true_eq] at wf ⊢
    exact ⟨⟨⟨by omega, wf.1.1.2⟩, wf.1.2⟩, wf.2⟩

theorem Memory.wfFrom_erase {reset : Nat → Word} {size b : Nat} {m : Memory} (a : Nat)
    (wf : Memory.wfFrom reset size b m = true) : Memory.wfFrom reset size b (m.erase a) = true := by
  induction m generalizing b with
  | nil => rfl
  | cons e m ih =>
    obtain ⟨k, w⟩ := e
    simp only [Memory.wfFrom, Bool.and_eq_true, decide_eq_true_eq] at wf
    have := ih wf.2
    simp only [Memory.erase] at this ⊢
    by_cases hk : k = a
    · simp only [ne_eq, hk, not_true_eq_false, decide_false, Bool.false_eq_true, not_false_eq_true,
        List.filter_cons_of_neg]
      exact Memory.wfFrom_mono (by omega) (hk ▸ this)
    · simp only [ne_eq, hk, not_false_eq_true, decide_true, List.filter_cons_of_pos, Memory.wfFrom,
        Bool.and_eq_true, decide_eq_true_eq]
      exact ⟨wf.1, this⟩

theorem Memory.wfFrom_insert {reset : Nat → Word} {size b : Nat} {m : Memory} {a : Nat} {v : Word}
    (hb : b ≤ a) (ha : a < size) (hv : v ≠ reset a) (wf : Memory.wfFrom reset size b m = true) :
    Memory.wfFrom reset size b (m.insert a v) = true := by
  induction m generalizing b with
  | nil => simp [Memory.insert, Memory.wfFrom, hb, ha, hv]
  | cons e m ih =>
    obtain ⟨k, w⟩ := e
    simp only [Memory.wfFrom, Bool.and_eq_true, decide_eq_true_eq] at wf
    simp only [Memory.insert]
    split
    · simp only [Memory.wfFrom, Bool.and_eq_true, decide_eq_true_eq]
      exact ⟨⟨⟨hb, ha⟩, hv⟩, ⟨⟨by omega, wf.1.1.2⟩, wf.1.2⟩, wf.2⟩
    · split
      · next h =>
        subst h
        simp only [Memory.wfFrom, Bool.and_eq_true, decide_eq_true_eq]
        exact ⟨⟨⟨hb, ha⟩, hv⟩, wf.2⟩
      · simp only [Memory.wfFrom, Bool.and_eq_true, decide_eq_true_eq]
        exact ⟨wf.1, ih (by omega) wf.2⟩

/-- A write keeps the canonical form. -/
theorem Memory.wf_write {reset : Nat → Word} {size : Nat} {m : Memory} {a : Nat} (v : Word) (ha : a < size)
    (wf : Memory.wf reset size m = true) : Memory.wf reset size (m.write reset a v) = true := by
  unfold Memory.write
  split
  · exact Memory.wfFrom_erase a wf
  · next h => exact Memory.wfFrom_insert (Nat.zero_le a) ha h wf

/-- An image is in canonical form just when each region is. -/
theorem Image.wf_iff (im : Image) :
    im.wf = true ↔ ∀ r : Region, Memory.wf r.resetWord r.area.size (im.region r) = true := by
  constructor
  · intro h r
    simp only [Image.wf, Bool.and_eq_true] at h
    rcases r with _ | _ | _ | b
    · exact h.1.1.1.1
    · exact h.1.1.1.2
    · exact h.1.1.2
    · cases b
      · exact h.1.2
      · exact h.2
  · intro h
    simp only [Image.wf, Bool.and_eq_true]
    exact ⟨⟨⟨⟨h .inp, h .out⟩, h .wrd⟩, h (.prm .bank0)⟩, h (.prm .bank1)⟩

theorem Image.wf_setRegion {im : Image} {r : Region} {m : Memory} (wf : im.wf = true)
    (hm : Memory.wf r.resetWord r.area.size m = true) : (im.setRegion r m).wf = true := by
  rw [Image.wf_iff] at wf ⊢
  intro r'
  by_cases h : r' = r
  · subst h; simpa using hm
  · rw [Image.region_setRegion_other _ _ _ _ h]; exact wf r'

theorem Image.wf_writeWord {im : Image} (r : Region) (i : Nat) (v : Word) (wf : im.wf = true) :
    (im.writeWord r i v).wf = true := by
  unfold Image.writeWord
  split
  · next h => exact Image.wf_setRegion wf (Memory.wf_write v h ((Image.wf_iff im).mp wf r))
  · exact wf

theorem Image.wf_writeWords {im : Image} (r : Region) (i : Nat) (vs : List Word) (wf : im.wf = true) :
    (im.writeWords r i vs).wf = true := by
  induction vs generalizing im i with
  | nil => exact wf
  | cons v vs ih => exact ih (i + 1) (Image.wf_writeWord r i v wf)

theorem Image.wf_maskWords {im : Image} (r : Region) (i : Nat) (ps : List (Word × Word)) (wf : im.wf = true) :
    (im.maskWords r i ps).wf = true := by
  induction ps generalizing im i with
  | nil => exact wf
  | cons v vs ih => exact ih (i + 1) (Image.wf_writeWord r i _ wf)

theorem Image.wf_setInput {im : Image} (n : Line) (level : Bool) (wf : im.wf = true) :
    (im.setInput n level).wf = true := Image.wf_writeWord _ _ _ wf

theorem Image.wf_bumpGen {im : Image} (wf : im.wf = true) : im.bumpGen.wf = true := wf

theorem Image.wf_commitWords {im : Image} (op : WriteOp) (r : Region) (first count : Nat) (buffer : List Word)
    (wf : im.wf = true) : (im.commitWords op r first count buffer).wf = true := by
  cases op
  · exact Image.wf_writeWords _ _ _ wf
  · exact Image.wf_maskWords _ _ _ wf

theorem Image.wf_swapBanks {im : Image} (wf : im.wf = true) : im.swapBanks.wf = true := wf

theorem Image.wf_copyBank {im : Image} (wf : im.wf = true) : im.copyBank.wf = true :=
  Image.wf_bumpGen (Image.wf_setRegion wf ((Image.wf_iff im).mp wf (.prm im.live)))

theorem Image.wf_reset : Image.reset.wf = true := rfl

/-- Banks that are exchanged keep every word; the live bank's words are those of the edit bank before. -/
theorem Image.liveWord_swapBanks (im : Image) (i : Nat) : im.swapBanks.liveWord i = im.editWord i := rfl

theorem Image.editWord_swapBanks (im : Image) (i : Nat) : im.swapBanks.editWord i = im.liveWord i := by
  unfold Image.editWord Image.edit Image.swapBanks Image.liveWord Image.word
  cases h : im.live <;> rfl

/-- The generation is no part of a region. -/
@[simp] theorem Image.region_bumpGen (im : Image) (r : Region) : im.bumpGen.region r = im.region r := by
  rcases r with _ | _ | _ | b <;> rfl

/-- After a COPY the edit bank reads as the live bank does, and no other region has changed. -/
theorem Image.word_copyBank (im : Image) (r : Region) (i : Nat) :
    im.copyBank.word r i = if r = .prm im.live.other then im.liveWord i else im.word r i := by
  unfold Image.copyBank Image.edit
  split
  · next h =>
    subst h
    simp only [Image.word, Image.liveWord, Image.region_bumpGen, Image.region_setRegion_same]
    rfl
  · next h => simp only [Image.word, Image.region_bumpGen, Image.region_setRegion_other _ _ _ _ h]

end Sys2Proof.Machine
end

