-- ==== Sys2Proof/Laws/State.lean ====
section
/-! SUPPORT. What each named update of the state leaves as it is, field by field, and what reading a port, a line or a
group after an update gives. -/

namespace Sys2Proof.Machine

/-! ### setPort -/

@[simp] theorem resetLow_setPort (s : State) (p : Port) (ps : PortState) : (s.setPort p ps).resetLow = s.resetLow := rfl
@[simp] theorem rateCode_setPort (s : State) (p : Port) (ps : PortState) : (s.setPort p ps).rateCode = s.rateCode := rfl
@[simp] theorem parity_setPort (s : State) (p : Port) (ps : PortState) : (s.setPort p ps).parity = s.parity := rfl
@[simp] theorem image_setPort (s : State) (p : Port) (ps : PortState) : (s.setPort p ps).image = s.image := rfl
@[simp] theorem claims_setPort (s : State) (p : Port) (ps : PortState) : (s.setPort p ps).claims = s.claims := rfl
@[simp] theorem holds_setPort (s : State) (p : Port) (ps : PortState) : (s.setPort p ps).holds = s.holds := rfl
@[simp] theorem nextId_setPort (s : State) (p : Port) (ps : PortState) : (s.setPort p ps).nextId = s.nextId := rfl
@[simp] theorem lines_setPort (s : State) (p : Port) (ps : PortState) : (s.setPort p ps).lines = s.lines := rfl
@[simp] theorem groups_setPort (s : State) (p : Port) (ps : PortState) : (s.setPort p ps).groups = s.groups := rfl
@[simp] theorem driven_setPort (s : State) (p : Port) (ps : PortState) : (s.setPort p ps).driven = s.driven := rfl
@[simp] theorem pending_setPort (s : State) (p : Port) (ps : PortState) : (s.setPort p ps).pending = s.pending := rfl
@[simp] theorem choices_setPort (s : State) (p : Port) (ps : PortState) : (s.setPort p ps).choices = s.choices := rfl
@[simp] theorem line_setPort (s : State) (p : Port) (ps : PortState) (n' : Line) : (s.setPort p ps).line n' = s.line n' := rfl
@[simp] theorem group_setPort (s : State) (p : Port) (ps : PortState) (g' : Group) : (s.setPort p ps).group g' = s.group g' := rfl

/-! ### modPort -/

@[simp] theorem resetLow_modPort (s : State) (p : Port) (f : PortState → PortState) : (s.modPort p f).resetLow = s.resetLow := rfl
@[simp] theorem rateCode_modPort (s : State) (p : Port) (f : PortState → PortState) : (s.modPort p f).rateCode = s.rateCode := rfl
@[simp] theorem parity_modPort (s : State) (p : Port) (f : PortState → PortState) : (s.modPort p f).parity = s.parity := rfl
@[simp] theorem image_modPort (s : State) (p : Port) (f : PortState → PortState) : (s.modPort p f).image = s.image := rfl
@[simp] theorem claims_modPort (s : State) (p : Port) (f : PortState → PortState) : (s.modPort p f).claims = s.claims := rfl
@[simp] theorem holds_modPort (s : State) (p : Port) (f : PortState → PortState) : (s.modPort p f).holds = s.holds := rfl
@[simp] theorem nextId_modPort (s : State) (p : Port) (f : PortState → PortState) : (s.modPort p f).nextId = s.nextId := rfl
@[simp] theorem lines_modPort (s : State) (p : Port) (f : PortState → PortState) : (s.modPort p f).lines = s.lines := rfl
@[simp] theorem groups_modPort (s : State) (p : Port) (f : PortState → PortState) : (s.modPort p f).groups = s.groups := rfl
@[simp] theorem driven_modPort (s : State) (p : Port) (f : PortState → PortState) : (s.modPort p f).driven = s.driven := rfl
@[simp] theorem pending_modPort (s : State) (p : Port) (f : PortState → PortState) : (s.modPort p f).pending = s.pending := rfl
@[simp] theorem choices_modPort (s : State) (p : Port) (f : PortState → PortState) : (s.modPort p f).choices = s.choices := rfl
@[simp] theorem line_modPort (s : State) (p : Port) (f : PortState → PortState) (n' : Line) : (s.modPort p f).line n' = s.line n' := rfl
@[simp] theorem group_modPort (s : State) (p : Port) (f : PortState → PortState) (g' : Group) : (s.modPort p f).group g' = s.group g' := rfl

/-! ### mapPorts -/

@[simp] theorem resetLow_mapPorts (s : State) (f : Port → PortState → PortState) : (s.mapPorts f).resetLow = s.resetLow := rfl
@[simp] theorem rateCode_mapPorts (s : State) (f : Port → PortState → PortState) : (s.mapPorts f).rateCode = s.rateCode := rfl
@[simp] theorem parity_mapPorts (s : State) (f : Port → PortState → PortState) : (s.mapPorts f).parity = s.parity := rfl
@[simp] theorem image_mapPorts (s : State) (f : Port → PortState → PortState) : (s.mapPorts f).image = s.image := rfl
@[simp] theorem claims_mapPorts (s : State) (f : Port → PortState → PortState) : (s.mapPorts f).claims = s.claims := rfl
@[simp] theorem holds_mapPorts (s : State) (f : Port → PortState → PortState) : (s.mapPorts f).holds = s.holds := rfl
@[simp] theorem nextId_mapPorts (s : State) (f : Port → PortState → PortState) : (s.mapPorts f).nextId = s.nextId := rfl
@[simp] theorem lines_mapPorts (s : State) (f : Port → PortState → PortState) : (s.mapPorts f).lines = s.lines := rfl
@[simp] theorem groups_mapPorts (s : State) (f : Port → PortState → PortState) : (s.mapPorts f).groups = s.groups := rfl
@[simp] theorem driven_mapPorts (s : State) (f : Port → PortState → PortState) : (s.mapPorts f).driven = s.driven := rfl
@[simp] theorem pending_mapPorts (s : State) (f : Port → PortState → PortState) : (s.mapPorts f).pending = s.pending := rfl
@[simp] theorem choices_mapPorts (s : State) (f : Port → PortState → PortState) : (s.mapPorts f).choices = s.choices := rfl
@[simp] theorem line_mapPorts (s : State) (f : Port → PortState → PortState) (n' : Line) : (s.mapPorts f).line n' = s.line n' := rfl
@[simp] theorem group_mapPorts (s : State) (f : Port → PortState → PortState) (g' : Group) : (s.mapPorts f).group g' = s.group g' := rfl

/-! ### setLine -/

@[simp] theorem resetLow_setLine (s : State) (n : Line) (l : LineFilter) : (s.setLine n l).resetLow = s.resetLow := rfl
@[simp] theorem rateCode_setLine (s : State) (n : Line) (l : LineFilter) : (s.setLine n l).rateCode = s.rateCode := rfl
@[simp] theorem parity_setLine (s : State) (n : Line) (l : LineFilter) : (s.setLine n l).parity = s.parity := rfl
@[simp] theorem image_setLine (s : State) (n : Line) (l : LineFilter) : (s.setLine n l).image = s.image := rfl
@[simp] theorem claims_setLine (s : State) (n : Line) (l : LineFilter) : (s.setLine n l).claims = s.claims := rfl
@[simp] theorem holds_setLine (s : State) (n : Line) (l : LineFilter) : (s.setLine n l).holds = s.holds := rfl
@[simp] theorem nextId_setLine (s : State) (n : Line) (l : LineFilter) : (s.setLine n l).nextId = s.nextId := rfl
@[simp] theorem ports_setLine (s : State) (n : Line) (l : LineFilter) : (s.setLine n l).ports = s.ports := rfl
@[simp] theorem groups_setLine (s : State) (n : Line) (l : LineFilter) : (s.setLine n l).groups = s.groups := rfl
@[simp] theorem driven_setLine (s : State) (n : Line) (l : LineFilter) : (s.setLine n l).driven = s.driven := rfl
@[simp] theorem pending_setLine (s : State) (n : Line) (l : LineFilter) : (s.setLine n l).pending = s.pending := rfl
@[simp] theorem choices_setLine (s : State) (n : Line) (l : LineFilter) : (s.setLine n l).choices = s.choices := rfl
@[simp] theorem port_setLine (s : State) (n : Line) (l : LineFilter) (p' : Port) : (s.setLine n l).port p' = s.port p' := rfl
@[simp] theorem group_setLine (s : State) (n : Line) (l : LineFilter) (g' : Group) : (s.setLine n l).group g' = s.group g' := rfl

/-! ### setGroup -/

@[simp] theorem resetLow_setGroup (s : State) (g : Group) (x : GroupState) : (s.setGroup g x).resetLow = s.resetLow := rfl
@[simp] theorem rateCode_setGroup (s : State) (g : Group) (x : GroupState) : (s.setGroup g x).rateCode = s.rateCode := rfl
@[simp] theorem parity_setGroup (s : State) (g : Group) (x : GroupState) : (s.setGroup g x).parity = s.parity := rfl
@[simp] theorem image_setGroup (s : State) (g : Group) (x : GroupState) : (s.setGroup g x).image = s.image := rfl
@[simp] theorem claims_setGroup (s : State) (g : Group) (x : GroupState) : (s.setGroup g x).claims = s.claims := rfl
@[simp] theorem holds_setGroup (s : State) (g : Group) (x : GroupState) : (s.setGroup g x).holds = s.holds := rfl
@[simp] theorem nextId_setGroup (s : State) (g : Group) (x : GroupState) : (s.setGroup g x).nextId = s.nextId := rfl
@[simp] theorem ports_setGroup (s : State) (g : Group) (x : GroupState) : (s.setGroup g x).ports = s.ports := rfl
@[simp] theorem lines_setGroup (s : State) (g : Group) (x : GroupState) : (s.setGroup g x).lines = s.lines := rfl
@[simp] theorem driven_setGroup (s : State) (g : Group) (x : GroupState) : (s.setGroup g x).driven = s.driven := rfl
@[simp] theorem pending_setGroup (s : State) (g : Group) (x : GroupState) : (s.setGroup g x).pending = s.pending := rfl
@[simp] theorem choices_setGroup (s : State) (g : Group) (x : GroupState) : (s.setGroup g x).choices = s.choices := rfl
@[simp] theorem port_setGroup (s : State) (g : Group) (x : GroupState) (p' : Port) : (s.setGroup g x).port p' = s.port p' := rfl
@[simp] theorem line_setGroup (s : State) (g : Group) (x : GroupState) (n' : Line) : (s.setGroup g x).line n' = s.line n' := rfl

/-! ### mapGroups -/

@[simp] theorem resetLow_mapGroups (s : State) (f : Group → GroupState → GroupState) : (s.mapGroups f).resetLow = s.resetLow := rfl
@[simp] theorem rateCode_mapGroups (s : State) (f : Group → GroupState → GroupState) : (s.mapGroups f).rateCode = s.rateCode := rfl
@[simp] theorem parity_mapGroups (s : State) (f : Group → GroupState → GroupState) : (s.mapGroups f).parity = s.parity := rfl
@[simp] theorem image_mapGroups (s : State) (f : Group → GroupState → GroupState) : (s.mapGroups f).image = s.image := rfl
@[simp] theorem claims_mapGroups (s : State) (f : Group → GroupState → GroupState) : (s.mapGroups f).claims = s.claims := rfl
@[simp] theorem holds_mapGroups (s : State) (f : Group → GroupState → GroupState) : (s.mapGroups f).holds = s.holds := rfl
@[simp] theorem nextId_mapGroups (s : State) (f : Group → GroupState → GroupState) : (s.mapGroups f).nextId = s.nextId := rfl
@[simp] theorem ports_mapGroups (s : State) (f : Group → GroupState → GroupState) : (s.mapGroups f).ports = s.ports := rfl
@[simp] theorem lines_mapGroups (s : State) (f : Group → GroupState → GroupState) : (s.mapGroups f).lines = s.lines := rfl
@[simp] theorem driven_mapGroups (s : State) (f : Group → GroupState → GroupState) : (s.mapGroups f).driven = s.driven := rfl
@[simp] theorem pending_mapGroups (s : State) (f : Group → GroupState → GroupState) : (s.mapGroups f).pending = s.pending := rfl
@[simp] theorem choices_mapGroups (s : State) (f : Group → GroupState → GroupState) : (s.mapGroups f).choices = s.choices := rfl
@[simp] theorem port_mapGroups (s : State) (f : Group → GroupState → GroupState) (p' : Port) : (s.mapGroups f).port p' = s.port p' := rfl
@[simp] theorem line_mapGroups (s : State) (f : Group → GroupState → GroupState) (n' : Line) : (s.mapGroups f).line n' = s.line n' := rfl

/-! ### driveLines -/

@[simp] theorem resetLow_driveLines (s : State) : (s.driveLines).resetLow = s.resetLow := by simp only [State.driveLines]
@[simp] theorem rateCode_driveLines (s : State) : (s.driveLines).rateCode = s.rateCode := by simp only [State.driveLines]
@[simp] theorem parity_driveLines (s : State) : (s.driveLines).parity = s.parity := by simp only [State.driveLines]
@[simp] theorem image_driveLines (s : State) : (s.driveLines).image = s.image := by simp only [State.driveLines]
@[simp] theorem claims_driveLines (s : State) : (s.driveLines).claims = s.claims := by simp only [State.driveLines]
@[simp] theorem holds_driveLines (s : State) : (s.driveLines).holds = s.holds := by simp only [State.driveLines]
@[simp] theorem nextId_driveLines (s : State) : (s.driveLines).nextId = s.nextId := by simp only [State.driveLines]
@[simp] theorem ports_driveLines (s : State) : (s.driveLines).ports = s.ports := by simp only [State.driveLines]
@[simp] theorem lines_driveLines (s : State) : (s.driveLines).lines = s.lines := by simp only [State.driveLines]
@[simp] theorem groups_driveLines (s : State) : (s.driveLines).groups = s.groups := by simp only [State.driveLines]
@[simp] theorem pending_driveLines (s : State) : (s.driveLines).pending = s.pending := by simp only [State.driveLines]
@[simp] theorem choices_driveLines (s : State) : (s.driveLines).choices = s.choices := by simp only [State.driveLines]
@[simp] theorem port_driveLines (s : State) (p' : Port) : (s.driveLines).port p' = s.port p' := by simp only [State.driveLines, State.port]
@[simp] theorem line_driveLines (s : State) (n' : Line) : (s.driveLines).line n' = s.line n' := by simp only [State.driveLines, State.line]
@[simp] theorem group_driveLines (s : State) (g' : Group) : (s.driveLines).group g' = s.group g' := by simp only [State.driveLines, State.group]

/-! ### withdrawSnapshot -/

@[simp] theorem resetLow_withdrawSnapshot (s : State) (p : Port) : (s.withdrawSnapshot p).resetLow = s.resetLow := rfl
@[simp] theorem rateCode_withdrawSnapshot (s : State) (p : Port) : (s.withdrawSnapshot p).rateCode = s.rateCode := rfl
@[simp] theorem parity_withdrawSnapshot (s : State) (p : Port) : (s.withdrawSnapshot p).parity = s.parity := rfl
@[simp] theorem image_withdrawSnapshot (s : State) (p : Port) : (s.withdrawSnapshot p).image = s.image := rfl
@[simp] theorem holds_withdrawSnapshot (s : State) (p : Port) : (s.withdrawSnapshot p).holds = s.holds := rfl
@[simp] theorem nextId_withdrawSnapshot (s : State) (p : Port) : (s.withdrawSnapshot p).nextId = s.nextId := rfl
@[simp] theorem ports_withdrawSnapshot (s : State) (p : Port) : (s.withdrawSnapshot p).ports = s.ports := rfl
@[simp] theorem lines_withdrawSnapshot (s : State) (p : Port) : (s.withdrawSnapshot p).lines = s.lines := rfl
@[simp] theorem groups_withdrawSnapshot (s : State) (p : Port) : (s.withdrawSnapshot p).groups = s.groups := rfl
@[simp] theorem driven_withdrawSnapshot (s : State) (p : Port) : (s.withdrawSnapshot p).driven = s.driven := rfl
@[simp] theorem pending_withdrawSnapshot (s : State) (p : Port) : (s.withdrawSnapshot p).pending = s.pending := rfl
@[simp] theorem choices_withdrawSnapshot (s : State) (p : Port) : (s.withdrawSnapshot p).choices = s.choices := rfl
@[simp] theorem port_withdrawSnapshot (s : State) (p : Port) (p' : Port) : (s.withdrawSnapshot p).port p' = s.port p' := rfl
@[simp] theorem line_withdrawSnapshot (s : State) (p : Port) (n' : Line) : (s.withdrawSnapshot p).line n' = s.line n' := rfl
@[simp] theorem group_withdrawSnapshot (s : State) (p : Port) (g' : Group) : (s.withdrawSnapshot p).group g' = s.group g' := rfl

/-! ### removeHoldsOf -/

@[simp] theorem resetLow_removeHoldsOf (s : State) (p : Port) : (s.removeHoldsOf p).resetLow = s.resetLow := rfl
@[simp] theorem rateCode_removeHoldsOf (s : State) (p : Port) : (s.removeHoldsOf p).rateCode = s.rateCode := rfl
@[simp] theorem parity_removeHoldsOf (s : State) (p : Port) : (s.removeHoldsOf p).parity = s.parity := rfl
@[simp] theorem image_removeHoldsOf (s : State) (p : Port) : (s.removeHoldsOf p).image = s.image := rfl
@[simp] theorem claims_removeHoldsOf (s : State) (p : Port) : (s.removeHoldsOf p).claims = s.claims := rfl
@[simp] theorem nextId_removeHoldsOf (s : State) (p : Port) : (s.removeHoldsOf p).nextId = s.nextId := rfl
@[simp] theorem ports_removeHoldsOf (s : State) (p : Port) : (s.removeHoldsOf p).ports = s.ports := rfl
@[simp] theorem lines_removeHoldsOf (s : State) (p : Port) : (s.removeHoldsOf p).lines = s.lines := rfl
@[simp] theorem groups_removeHoldsOf (s : State) (p : Port) : (s.removeHoldsOf p).groups = s.groups := rfl
@[simp] theorem driven_removeHoldsOf (s : State) (p : Port) : (s.removeHoldsOf p).driven = s.driven := rfl
@[simp] theorem pending_removeHoldsOf (s : State) (p : Port) : (s.removeHoldsOf p).pending = s.pending := rfl
@[simp] theorem choices_removeHoldsOf (s : State) (p : Port) : (s.removeHoldsOf p).choices = s.choices := rfl
@[simp] theorem port_removeHoldsOf (s : State) (p : Port) (p' : Port) : (s.removeHoldsOf p).port p' = s.port p' := rfl
@[simp] theorem line_removeHoldsOf (s : State) (p : Port) (n' : Line) : (s.removeHoldsOf p).line n' = s.line n' := rfl
@[simp] theorem group_removeHoldsOf (s : State) (p : Port) (g' : Group) : (s.removeHoldsOf p).group g' = s.group g' := rfl

/-! ### removeHold -/

@[simp] theorem resetLow_removeHold (s : State) (id : Byte) : (s.removeHold id).resetLow = s.resetLow := rfl
@[simp] theorem rateCode_removeHold (s : State) (id : Byte) : (s.removeHold id).rateCode = s.rateCode := rfl
@[simp] theorem parity_removeHold (s : State) (id : Byte) : (s.removeHold id).parity = s.parity := rfl
@[simp] theorem image_removeHold (s : State) (id : Byte) : (s.removeHold id).image = s.image := rfl
@[simp] theorem claims_removeHold (s : State) (id : Byte) : (s.removeHold id).claims = s.claims := rfl
@[simp] theorem nextId_removeHold (s : State) (id : Byte) : (s.removeHold id).nextId = s.nextId := rfl
@[simp] theorem ports_removeHold (s : State) (id : Byte) : (s.removeHold id).ports = s.ports := rfl
@[simp] theorem lines_removeHold (s : State) (id : Byte) : (s.removeHold id).lines = s.lines := rfl
@[simp] theorem groups_removeHold (s : State) (id : Byte) : (s.removeHold id).groups = s.groups := rfl
@[simp] theorem driven_removeHold (s : State) (id : Byte) : (s.removeHold id).driven = s.driven := rfl
@[simp] theorem pending_removeHold (s : State) (id : Byte) : (s.removeHold id).pending = s.pending := rfl
@[simp] theorem choices_removeHold (s : State) (id : Byte) : (s.removeHold id).choices = s.choices := rfl
@[simp] theorem port_removeHold (s : State) (id : Byte) (p' : Port) : (s.removeHold id).port p' = s.port p' := rfl
@[simp] theorem line_removeHold (s : State) (id : Byte) (n' : Line) : (s.removeHold id).line n' = s.line n' := rfl
@[simp] theorem group_removeHold (s : State) (id : Byte) (g' : Group) : (s.removeHold id).group g' = s.group g' := rfl

/-! ### renewHold -/

@[simp] theorem resetLow_renewHold (s : State) (id : Byte) (lease : Word) : (s.renewHold id lease).resetLow = s.resetLow := rfl
@[simp] theorem rateCode_renewHold (s : State) (id : Byte) (lease : Word) : (s.renewHold id lease).rateCode = s.rateCode := rfl
@[simp] theorem parity_renewHold (s : State) (id : Byte) (lease : Word) : (s.renewHold id lease).parity = s.parity := rfl
@[simp] theorem image_renewHold (s : State) (id : Byte) (lease : Word) : (s.renewHold id lease).image = s.image := rfl
@[simp] theorem claims_renewHold (s : State) (id : Byte) (lease : Word) : (s.renewHold id lease).claims = s.claims := rfl
@[simp] theorem nextId_renewHold (s : State) (id : Byte) (lease : Word) : (s.renewHold id lease).nextId = s.nextId := rfl
@[simp] theorem ports_renewHold (s : State) (id : Byte) (lease : Word) : (s.renewHold id lease).ports = s.ports := rfl
@[simp] theorem lines_renewHold (s : State) (id : Byte) (lease : Word) : (s.renewHold id lease).lines = s.lines := rfl
@[simp] theorem groups_renewHold (s : State) (id : Byte) (lease : Word) : (s.renewHold id lease).groups = s.groups := rfl
@[simp] theorem driven_renewHold (s : State) (id : Byte) (lease : Word) : (s.renewHold id lease).driven = s.driven := rfl
@[simp] theorem pending_renewHold (s : State) (id : Byte) (lease : Word) : (s.renewHold id lease).pending = s.pending := rfl
@[simp] theorem choices_renewHold (s : State) (id : Byte) (lease : Word) : (s.renewHold id lease).choices = s.choices := rfl
@[simp] theorem port_renewHold (s : State) (id : Byte) (lease : Word) (p' : Port) : (s.renewHold id lease).port p' = s.port p' := rfl
@[simp] theorem line_renewHold (s : State) (id : Byte) (lease : Word) (n' : Line) : (s.renewHold id lease).line n' = s.line n' := rfl
@[simp] theorem group_renewHold (s : State) (id : Byte) (lease : Word) (g' : Group) : (s.renewHold id lease).group g' = s.group g' := rfl

/-! ### grantHold -/

@[simp] theorem resetLow_grantHold (s : State) (p : Port) (area : Area) (first count : Nat) (lease : Word) : (s.grantHold p area first count lease).resetLow = s.resetLow := by
  simp only [State.grantHold]
@[simp] theorem rateCode_grantHold (s : State) (p : Port) (area : Area) (first count : Nat) (lease : Word) : (s.grantHold p area first count lease).rateCode = s.rateCode := by
  simp only [State.grantHold]
@[simp] theorem parity_grantHold (s : State) (p : Port) (area : Area) (first count : Nat) (lease : Word) : (s.grantHold p area first count lease).parity = s.parity := by
  simp only [State.grantHold]
@[simp] theorem image_grantHold (s : State) (p : Port) (area : Area) (first count : Nat) (lease : Word) : (s.grantHold p area first count lease).image = s.image := by
  simp only [State.grantHold]
@[simp] theorem claims_grantHold (s : State) (p : Port) (area : Area) (first count : Nat) (lease : Word) : (s.grantHold p area first count lease).claims = s.claims := by
  simp only [State.grantHold]
@[simp] theorem ports_grantHold (s : State) (p : Port) (area : Area) (first count : Nat) (lease : Word) : (s.grantHold p area first count lease).ports = s.ports := by
  simp only [State.grantHold]
@[simp] theorem lines_grantHold (s : State) (p : Port) (area : Area) (first count : Nat) (lease : Word) : (s.grantHold p area first count lease).lines = s.lines := by
  simp only [State.grantHold]
@[simp] theorem groups_grantHold (s : State) (p : Port) (area : Area) (first count : Nat) (lease : Word) : (s.grantHold p area first count lease).groups = s.groups := by
  simp only [State.grantHold]
@[simp] theorem driven_grantHold (s : State) (p : Port) (area : Area) (first count : Nat) (lease : Word) : (s.grantHold p area first count lease).driven = s.driven := by
  simp only [State.grantHold]
@[simp] theorem pending_grantHold (s : State) (p : Port) (area : Area) (first count : Nat) (lease : Word) : (s.grantHold p area first count lease).pending = s.pending := by
  simp only [State.grantHold]
@[simp] theorem choices_grantHold (s : State) (p : Port) (area : Area) (first count : Nat) (lease : Word) : (s.grantHold p area first count lease).choices = s.choices := by
  simp only [State.grantHold]
@[simp] theorem port_grantHold (s : State) (p : Port) (area : Area) (first count : Nat) (lease : Word) (p' : Port) : (s.grantHold p area first count lease).port p' = s.port p' := by
  simp only [State.grantHold, State.port]
@[simp] theorem line_grantHold (s : State) (p : Port) (area : Area) (first count : Nat) (lease : Word) (n' : Line) : (s.grantHold p area first count lease).line n' = s.line n' := by
  simp only [State.grantHold, State.line]
@[simp] theorem group_grantHold (s : State) (p : Port) (area : Area) (first count : Nat) (lease : Word) (g' : Group) : (s.grantHold p area first count lease).group g' = s.group g' := by
  simp only [State.grantHold, State.group]

/-! ### handOver -/

@[simp] theorem resetLow_handOver (s : State) (cs : List Claim) : (s.handOver cs).resetLow = s.resetLow := by
  unfold State.handOver; split <;> rfl
@[simp] theorem rateCode_handOver (s : State) (cs : List Claim) : (s.handOver cs).rateCode = s.rateCode := by
  unfold State.handOver; split <;> rfl
@[simp] theorem parity_handOver (s : State) (cs : List Claim) : (s.handOver cs).parity = s.parity := by
  unfold State.handOver; split <;> rfl
@[simp] theorem image_handOver (s : State) (cs : List Claim) : (s.handOver cs).image = s.image := by
  unfold State.handOver; split <;> rfl
@[simp] theorem holds_handOver (s : State) (cs : List Claim) : (s.handOver cs).holds = s.holds := by
  unfold State.handOver; split <;> rfl
@[simp] theorem nextId_handOver (s : State) (cs : List Claim) : (s.handOver cs).nextId = s.nextId := by
  unfold State.handOver; split <;> rfl
@[simp] theorem ports_handOver (s : State) (cs : List Claim) : (s.handOver cs).ports = s.ports := by
  unfold State.handOver; split <;> rfl
@[simp] theorem lines_handOver (s : State) (cs : List Claim) : (s.handOver cs).lines = s.lines := by
  unfold State.handOver; split <;> rfl
@[simp] theorem groups_handOver (s : State) (cs : List Claim) : (s.handOver cs).groups = s.groups := by
  unfold State.handOver; split <;> rfl
@[simp] theorem driven_handOver (s : State) (cs : List Claim) : (s.handOver cs).driven = s.driven := by
  unfold State.handOver; split <;> rfl
@[simp] theorem pending_handOver (s : State) (cs : List Claim) : (s.handOver cs).pending = s.pending := by
  unfold State.handOver; split <;> rfl
@[simp] theorem choices_handOver (s : State) (cs : List Claim) : (s.handOver cs).choices = s.choices := by
  unfold State.handOver; split <;> rfl
@[simp] theorem port_handOver (s : State) (cs : List Claim) (p : Port) : (s.handOver cs).port p = s.port p := by
  unfold State.handOver; split <;> rfl
@[simp] theorem line_handOver (s : State) (cs : List Claim) (n : Line) : (s.handOver cs).line n = s.line n := by
  unfold State.handOver; split <;> rfl
@[simp] theorem group_handOver (s : State) (cs : List Claim) (g : Group) : (s.handOver cs).group g = s.group g := by
  unfold State.handOver; split <;> rfl

/-- Claims handed over join behind all that wait, in one batch; none handed over leaves the list as it is. -/
theorem claims_handOver (s : State) (cs : List Claim) :
    (s.handOver cs).claims = if cs.isEmpty then s.claims else s.claims ++ [cs] := by
  unfold State.handOver; split <;> rfl

/-! ### Reading after an update -/

@[simp] theorem port_setPort_same (s : State) (p : Port) (ps : PortState) : (s.setPort p ps).port p = ps := by
  simp [State.port, State.setPort, Vector.get_eq_getElem]

theorem port_setPort_other (s : State) (p q : Port) (ps : PortState) (h : q ≠ p) :
    (s.setPort p ps).port q = s.port q := by
  have h' : p.val ≠ q.val := fun e => h (Fin.ext e.symm)
  simp [State.port, State.setPort, Vector.get_eq_getElem, h']

theorem port_setPort (s : State) (p q : Port) (ps : PortState) :
    (s.setPort p ps).port q = if q = p then ps else s.port q := by
  split
  · next h => subst h; exact port_setPort_same s q ps
  · next h => exact port_setPort_other s p q ps h

@[simp] theorem port_modPort_same (s : State) (p : Port) (f : PortState → PortState) :
    (s.modPort p f).port p = f (s.port p) := port_setPort_same s p _

theorem port_modPort_other (s : State) (p q : Port) (f : PortState → PortState) (h : q ≠ p) :
    (s.modPort p f).port q = s.port q := port_setPort_other s p q _ h

@[simp] theorem port_mapPorts (s : State) (f : Port → PortState → PortState) (p : Port) :
    (s.mapPorts f).port p = f p (s.port p) := by
  simp [State.port, State.mapPorts, Vector.get_eq_getElem]

@[simp] theorem line_setLine_same (s : State) (n : Line) (l : LineFilter) : (s.setLine n l).line n = l := by
  simp [State.line, State.setLine, Vector.get_eq_getElem]

theorem line_setLine_other (s : State) (n m : Line) (l : LineFilter) (h : m ≠ n) :
    (s.setLine n l).line m = s.line m := by
  have h' : n.val ≠ m.val := fun e => h (Fin.ext e.symm)
  simp [State.line, State.setLine, Vector.get_eq_getElem, h']

@[simp] theorem group_setGroup_same (s : State) (g : Group) (x : GroupState) : (s.setGroup g x).group g = x := by
  simp [State.group, State.setGroup, Vector.get_eq_getElem]

theorem group_setGroup_other (s : State) (g k : Group) (x : GroupState) (h : k ≠ g) :
    (s.setGroup g x).group k = s.group k := by
  have h' : g.val ≠ k.val := fun e => h (Fin.ext e.symm)
  simp [State.group, State.setGroup, Vector.get_eq_getElem, h']

@[simp] theorem group_mapGroups (s : State) (f : Group → GroupState → GroupState) (g : Group) :
    (s.mapGroups f).group g = f g (s.group g) := by
  simp [State.group, State.mapGroups, Vector.get_eq_getElem]

/-- Two states with the same ports, port by port, and the same rest are the same. -/
theorem ports_ext {v w : Vector PortState 4} (h : ∀ p : Port, v.get p = w.get p) : v = w := by
  ext i hi
  have := h ⟨i, hi⟩
  simpa [Vector.get_eq_getElem] using this

/-- Putting a port back as it stands changes nothing. -/
@[simp] theorem setPort_port (s : State) (p : Port) : s.setPort p (s.port p) = s := by
  have : s.ports.set p (s.port p) = s.ports := by simp [State.port, Vector.get_eq_getElem]
  simp only [State.setPort, this]

/-- Of two updates of one port the later stands. -/
@[simp] theorem setPort_setPort (s : State) (p : Port) (a b : PortState) :
    (s.setPort p a).setPort p b = s.setPort p b := by
  have : (s.ports.set p a).set p b = s.ports.set p b := by simp
  simp [State.setPort, this]

/-- Two changes of one port are one. -/
theorem modPort_modPort (s : State) (p : Port) (f g : PortState → PortState) :
    (s.modPort p f).modPort p g = s.modPort p (fun ps => g (f ps)) := by
  simp [State.modPort]

/-- A change of one port, in the form the claims about a step use. -/
theorem onlyPort_modPort (s : State) (p : Port) (f : PortState → PortState) :
    s.modPort p f = { s with ports := (s.modPort p f).ports } ∧ ∀ q, q ≠ p → (s.modPort p f).port q = s.port q :=
  ⟨rfl, fun q h => port_modPort_other s p q f h⟩

end Sys2Proof.Machine
end

