-- ==== Sys2Proof/Laws/Shared.lean ====
section
/-! SUPPORT. One lemma for each shared operation that says all it can do: the transmitter, replies, delivery,
the arbiter's taking of a claim, the lowest blocking id, the reading of a request, the expiries that are due. -/

namespace Sys2Proof.Machine

/-! ### The transmitter -/

/-- Beginning a frame changes the transmitter alone. -/
theorem PortState.pump_eq (ps : PortState) : ps.pump = { ps with tx := ps.pump.tx } := by
  unfold PortState.pump
  split
  · rfl
  · split
    · rfl
    · split <;> rfl

/-- A transmitter in use, or held, begins nothing. -/
theorem PortState.pump_busy (ps : PortState) (h : ps.tx.sending.isSome = true ∨ ps.held = true) : ps.pump = ps := by
  unfold PortState.pump
  rcases h with h | h <;> simp [h]

/-- Where no frame waits for a free transmitter, none is begun. -/
theorem PortState.pump_nothing (ps : PortState) (h : ps.waitsToBegin = false) : ps.pump = ps := by
  unfold PortState.pump
  split
  · rfl
  · next hb =>
    simp only [Bool.or_eq_true, not_or, Bool.not_eq_true, Option.isSome_eq_false_iff, Option.isNone_iff_eq_none] at hb
    simp only [PortState.waitsToBegin, hb.1, hb.2, Option.isNone_none, Bool.not_false, Bool.true_and,
      Bool.or_eq_false_iff, Bool.not_eq_false', List.isEmpty_iff, Option.isSome_eq_false_iff,
      Option.isNone_iff_eq_none] at h
    rw [h.1, h.2]

/-- The frame that waits for a free transmitter, read off the port. -/
theorem PortState.waitsToBegin_iff (ps : PortState) : ps.waitsToBegin = true ↔ FrameWaits ps := by
  simp [PortState.waitsToBegin, PortState.held, FrameWaits, Option.isSome_iff_ne_none, and_assoc]

/-- A frame that waits for a free transmitter is begun, a session frame before the NTC. -/
theorem PortState.begins_pump (ps : PortState) (h : FrameWaits ps) : Begins ps ps.pump := by
  obtain ⟨hs, hb, _⟩ := h
  have idle : (ps.tx.sending.isSome || ps.held) = false := by simp [hs, PortState.held, hb]
  refine ⟨PortState.pump_eq ps, fun f rest hq => ?_, fun f hq hf => ?_⟩
  · simp [PortState.pump, idle, hq, Transmitter.start]
  · simp [PortState.pump, idle, hq, hf, Transmitter.start]

/-- A frame waits somewhere in the part just when it waits at one of the ports. -/
theorem State.waitsToBegin_iff (s : State) :
    s.waitsToBegin = true ↔ s.resetLow = false ∧ ∃ p, FrameWaits (s.port p) := by
  have all (p : Port) : p ∈ allPorts := by revert p; decide
  simp only [State.waitsToBegin, Bool.and_eq_true, Bool.not_eq_true', List.any_eq_true, PortState.waitsToBegin_iff]
  exact and_congr_right fun _ => ⟨fun ⟨p, _, h⟩ => ⟨p, h⟩, fun ⟨p, h⟩ => ⟨p, all p, h⟩⟩

/-- Beginning a frame loses none and reorders none of the session frames; only an NTC can come out of the slot. -/
theorem PortState.frames_pump (ps : PortState) :
    ps.pump.tx.frames = ps.tx.frames ∨
      ps.tx.sending = none ∧ ps.tx.queue = [] ∧ ∃ f, ps.tx.slot = some f ∧ ps.pump.tx.frames = [f] := by
  unfold PortState.pump
  split
  · exact Or.inl rfl
  · next h =>
    simp only [Bool.or_eq_true, not_or, Bool.not_eq_true, Option.isSome_eq_false_iff, Option.isNone_iff_eq_none] at h
    split
    · next f rest hq => left; simp [Transmitter.frames, Transmitter.start, hq, h.1]
    · next hq =>
      split
      · next f hs => right; exact ⟨h.1, hq, f, hs, by simp [Transmitter.frames, Transmitter.start, hq]⟩
      · exact Or.inl rfl

/-- A frame whose producer waits for nothing leaves the port as it is when it is reported sent. -/
@[simp] theorem PortState.reportSession_reply (ps : PortState) (f : TxFrame) (h : f.origin = .reply) :
    ps.reportSession f = ps := by
  unfold PortState.reportSession; rw [h]

/-- With no transfer open, no report of a sent session frame changes the port. -/
theorem PortState.reportSession_atRest (ps : PortState) (f : TxFrame) (h : ps.transfer = none) :
    ps.reportSession f = ps := by
  unfold PortState.reportSession PortState.startTAck PortState.close
  rw [h]
  cases f.origin <;> rfl

/-- A frame formed where the queue has room changes the transmitter alone. -/
theorem PortState.form_room (ps : PortState) (f : TxFrame) (h : ps.tx.queue.length < 4) :
    ps.form f = { ps with tx := { ps.tx with queue := ps.tx.queue ++ [f] } }.pump := by
  unfold PortState.form
  split
  · next oldest rest hq =>
    rw [hq] at h
    simp only [List.length_cons] at h
    have : ¬(Config.maxFrames ≤ rest.length + 1) := by unfold Config.maxFrames; omega
    rw [if_neg this, hq]
  · next hq => rw [hq]; rfl

/-- A frame formed where the queue is full removes the oldest frame and reports it sent. -/
theorem PortState.form_full (ps : PortState) (f oldest : TxFrame) (rest : List TxFrame)
    (hq : ps.tx.queue = oldest :: rest) (h : 3 ≤ rest.length) :
    ps.form f = ({ ps with tx := { ps.tx with queue := rest ++ [f] } }.reportSession oldest).pump := by
  unfold PortState.form
  rw [hq]
  have : Config.maxFrames ≤ rest.length + 1 := by unfold Config.maxFrames; omega
  simp only [this, if_true]

/-- The report of a sent session frame leaves the transmitter, the receiver, the notices and the counters. -/
theorem PortState.reportSession_eq (ps : PortState) (f : TxFrame) :
    ps.reportSession f =
      { ps with
        tAck := (ps.reportSession f).tAck, record := (ps.reportSession f).record
        buffer := (ps.reportSession f).buffer, transfer := (ps.reportSession f).transfer
        session := (ps.reportSession f).session } := by
  unfold PortState.reportSession PortState.startTAck PortState.close
  cases f.origin
  · rfl
  · cases h : ps.transfer
    · rfl
    · simp only; split <;> rfl
  · cases h : ps.transfer
    · rfl
    · simp only; split <;> rfl
  · rfl

/-- A formed frame stands last among the frames that the transmitter has begun or still has to send. -/
theorem PortState.frames_form (ps : PortState) (f : TxFrame) : (ps.form f).tx.frames = ps.tx.joined f := by
  have key : ∀ qs : PortState, qs.tx.queue ≠ [] → qs.pump.tx.frames = qs.tx.frames := fun qs hne => by
    rcases PortState.frames_pump qs with h | h
    · exact h
    · exact absurd h.2.1 hne
  unfold PortState.form
  split
  · next oldest rest hq =>
    split
    · next hfull =>
      rw [key _ (by rw [PortState.reportSession_eq]; simp)]
      rw [PortState.reportSession_eq]
      have : ¬(rest.length + 1 < 4) := by unfold Config.maxFrames at hfull; omega
      simp only [Transmitter.frames, Transmitter.joined, hq, List.length_cons, this, if_false, List.tail_cons,
        List.append_assoc]
    · next hroom =>
      rw [key _ (by simp)]
      have : rest.length + 1 < 4 := by unfold Config.maxFrames at hroom; omega
      simp only [Transmitter.frames, Transmitter.joined, hq, List.length_cons, this, if_true, List.append_assoc]
  · next hq =>
    rw [key _ (by simp)]
    simp [Transmitter.frames, Transmitter.joined, hq]

/-- At rest a formed frame changes the transmitter alone. -/
theorem PortState.form_atRest (ps : PortState) (f : TxFrame) (h : ps.transfer = none) :
    ps.form f = { ps with tx := (ps.form f).tx } := by
  unfold PortState.form
  split
  · split
    · rw [PortState.reportSession_atRest _ _ (by exact h)]
      rw [PortState.pump_eq]
    · rw [PortState.pump_eq]
  · rw [PortState.pump_eq]

/-- A final reply at rest: its frame joins, it is the record, and nothing else changes. -/
theorem PortState.respond_final (ps : PortState) (request : List Byte) (code : ReplyCode) (detail : List Byte)
    (h : ps.transfer = none) :
    (ps.respond request code detail true).tx.frames = ps.tx.joined (rspFrame request code.byte detail) ∧
      ps.respond request code detail true =
        { ps with
          tx := (ps.respond request code detail true).tx
          record := some { request := request, replyKind := .rsp, reply := tagOf request :: code.byte :: detail } } := by
  constructor
  · exact PortState.frames_form _ _
  · exact PortState.form_atRest _ _ h

/-! ### Delivery -/

/-- Delivery leaves the subscriptions, the lost count and the entries as they are but for what a first
transmission fixes. -/
theorem PortState.sameNotices_deliver (ps : PortState) (enabled : Bool) :
    SameNotices ps.notice (ps.deliver enabled).notice := by
  unfold PortState.deliver
  split
  · unfold PortState.send
    split
    · exact ⟨rfl, rfl, rfl⟩
    · next e rest hq =>
      split
      · exact ⟨rfl, rfl, rfl⟩
      · refine ⟨rfl, rfl, ?_⟩
        simp [PortState.placeNtc, hq, Notice.entry]
  · exact ⟨rfl, rfl, rfl⟩

/-- Delivery changes the transmitter, the session and the notice state alone. -/
theorem PortState.deliver_eq (ps : PortState) (enabled : Bool) :
    ps.deliver enabled =
      { ps with tx := (ps.deliver enabled).tx, session := (ps.deliver enabled).session
                notice := (ps.deliver enabled).notice } := by
  unfold PortState.deliver PortState.send PortState.placeNtc
  split
  · split
    · rfl
    · split <;> rfl
  · rfl

/-- What delivery places waits in the slot: the frame in progress and the session frames stay. -/
theorem PortState.frames_deliver (ps : PortState) (enabled : Bool) :
    (ps.deliver enabled).tx = { ps.tx with slot := (ps.deliver enabled).tx.slot } := by
  unfold PortState.deliver PortState.send PortState.placeNtc
  split
  · split
    · rfl
    · split <;> rfl
  · rfl

/-- With its bit at 0, or with nothing queued, a port sends nothing. -/
theorem PortState.deliver_nothing (ps : PortState) (enabled : Bool)
    (h : enabled = false ∨ ps.notice.queue = []) : ps.deliver enabled = ps := by
  unfold PortState.deliver PortState.readyToSend
  rcases h with h | h <;> simp [h]

/-! ### Claims -/

/-- The arbiter takes a claim only from among those that arrived first, and leaves every other in its place. -/
theorem takeClaim_some {f : Claim → Bool} {cs left : List (List Claim)} {c : Claim}
    (h : takeClaim f cs = some (c, left)) :
    f c = true ∧ ∃ before after later, cs = (before ++ c :: after) :: later ∧ (∀ x ∈ before, f x = false) ∧
      left = claimsLeft before after later := by
  unfold takeClaim at h
  split at h
  · exact absurd h (by simp)
  · next batch later =>
    split at h
    · exact absurd h (by simp)
    · next c' hf =>
      simp only [Option.some.injEq, Prod.mk.injEq] at h
      obtain ⟨rfl, rfl⟩ := h
      obtain ⟨hc, before, after, hb, hbefore⟩ := List.find?_eq_some_iff_append.mp hf
      refine ⟨hc, before, after, later, by rw [hb], ?_, ?_⟩
      · intro x hx; simpa using hbefore x hx
      · have : batch.eraseP f = before ++ after := by
          rw [hb, List.eraseP_append_right _ (fun x hx => by simpa using hbefore x hx), List.eraseP_cons_of_pos hc]
        simp only [this, claimsLeft]

/-- A claim that stands among those that arrived first, ahead of any other that the row could mean, is taken. -/
theorem takeClaim_oldest {f : Claim → Bool} {before after : List Claim} {later : List (List Claim)} {c : Claim}
    (hc : f c = true) (hb : ∀ x ∈ before, f x = false) :
    takeClaim f ((before ++ c :: after) :: later) = some (c, claimsLeft before after later) := by
  have hfind : (before ++ c :: after).find? f = some c := by
    rw [List.find?_eq_some_iff_append]
    exact ⟨hc, before, after, rfl, fun x hx => by simp [hb x hx]⟩
  have herase : (before ++ c :: after).eraseP f = before ++ after := by
    rw [List.eraseP_append_right _ (fun x hx => by simp [hb x hx]), List.eraseP_cons_of_pos hc]
  simp only [takeClaim, hfind, herase, claimsLeft]

/-! ### Holds -/

/-- No entry, no lowest id. -/
theorem lowestId_eq_none {holds : List Hold} : lowestId holds = none ↔ holds = [] := by
  cases holds with
  | nil => simp [lowestId]
  | cons h hs => simp only [lowestId]; split <;> simp

/-- The lowest id is an entry's, and no entry's is lower. -/
theorem lowestId_eq_some {holds : List Hold} {id : Byte} (h : lowestId holds = some id) :
    (∃ x ∈ holds, x.id = id) ∧ ∀ x ∈ holds, id.toNat ≤ x.id.toNat := by
  induction holds generalizing id with
  | nil => simp [lowestId] at h
  | cons y ys ih =>
    simp only [lowestId] at h
    split at h
    · next hn =>
      rw [lowestId_eq_none] at hn
      simp only [Option.some.injEq] at h
      subst hn h
      simp
    · next i hi =>
      obtain ⟨⟨x, hx, hxi⟩, hle⟩ := ih hi
      simp only [Option.some.injEq] at h
      split at h
      · next hyi =>
        subst h
        refine ⟨⟨y, by simp, rfl⟩, ?_⟩
        intro z hz
        rcases List.mem_cons.mp hz with rfl | hz
        · exact Nat.le_refl _
        · exact Nat.le_trans hyi (hle z hz)
      · next hyi =>
        subst h
        refine ⟨⟨x, by simp [hx], hxi⟩, ?_⟩
        intro z hz
        rcases List.mem_cons.mp hz with rfl | hz
        · omega
        · exact hle z hz

/-- The consultation of the Hold Table answers no id just when no other port's entry meets the range. -/
theorem blocking_eq_none {holds : List Hold} {p : Port} {area : Area} {first count : Nat} (h1 : 1 ≤ count) :
    blocking holds p area first (first + count - 1) = none ↔
      ∀ h ∈ holds, h.owner ≠ p → ¬h.meets area first count := by
  unfold blocking
  rw [lowestId_eq_none, List.filter_eq_nil_iff]
  constructor
  · intro hn h hm ho hmeets
    apply hn h hm
    simp only [Hold.overlaps, Bool.and_eq_true, decide_eq_true_eq]
    exact ⟨ho, ⟨hmeets.1, by omega⟩, hmeets.2.2⟩
  · intro hn h hm hc
    simp only [Hold.overlaps, Bool.and_eq_true, decide_eq_true_eq] at hc
    exact hn h hm hc.1 ⟨hc.2.1.1, by omega, hc.2.2⟩

/-! ### Words and requests on the link -/

/-- A word's two bytes make the word again. -/
@[simp] theorem wordOf_bytes (w : Word) : wordOf (hiByte w) (loByte w) = w := by
  unfold wordOf hiByte loByte
  ext i hi
  simp only [BitVec.getElem_append, BitVec.getElem_extractLsb', Nat.zero_add]
  split
  · rfl
  · next h => rw [BitVec.getLsbD_eq_getElem (by omega)]; congr 1; omega

/-- A request is read back from its operation code and fields as it was. -/
@[simp] theorem requestOf_fields (r : Request) : requestOf r.op r.fields = some r := by
  cases r with
  | read a f i n =>
    show some (Request.read a f (wordOf (hiByte i) (loByte i)) (wordOf (hiByte n) (loByte n))) = _
    simp only [wordOf_bytes]
  | write a f i n =>
    show some (Request.write a f (wordOf (hiByte i) (loByte i)) (wordOf (hiByte n) (loByte n))) = _
    simp only [wordOf_bytes]
  | mwrite a f i n =>
    show some (Request.mwrite a f (wordOf (hiByte i) (loByte i)) (wordOf (hiByte n) (loByte n))) = _
    simp only [wordOf_bytes]
  | hold a i n l =>
    show some (Request.hold a (wordOf (hiByte i) (loByte i)) (wordOf (hiByte n) (loByte n))
      (wordOf (hiByte l) (loByte l))) = _
    simp only [wordOf_bytes]
  | renew i l =>
    show some (Request.renew i (wordOf (hiByte l) (loByte l))) = _
    simp only [wordOf_bytes]
  | subscribe a f i n =>
    show some (Request.subscribe a f (wordOf (hiByte i) (loByte i)) (wordOf (hiByte n) (loByte n))) = _
    simp only [wordOf_bytes]
  | release => rfl
  | unsubscribe => rfl
  | swap => rfl
  | copy => rfl
  | ping => rfl

/-- A request is read back from its payload as it was. -/
@[simp] theorem requestOfPayload_payload (tag : Byte) (r : Request) : requestOfPayload (r.payload tag) = some r :=
  requestOf_fields r

@[simp] theorem tagOf_payload (tag : Byte) (r : Request) : tagOf (r.payload tag) = tag := rfl

/-- The high byte of a word, by its value. -/
theorem hiByte_eq (w : Word) : hiByte w = BitVec.ofNat 8 (w.toNat / 256) := by
  apply BitVec.eq_of_toNat_eq
  simp [hiByte, BitVec.extractLsb', Nat.shiftRight_eq_div_pow]

/-- The low byte of a word, by its value. -/
theorem loByte_eq (w : Word) : loByte w = BitVec.ofNat 8 w.toNat := by
  apply BitVec.eq_of_toNat_eq
  simp [loByte, BitVec.extractLsb', Nat.shiftRight_eq_div_pow]

/-- The parity bit is 1 for an odd number of ones. -/
theorem parityOf_eq : ∀ b : Byte, parityOf b = decide ((List.range 8).countP b.getLsbD % 2 = 1) := by decide +kernel

/-- An area's code names the area. -/
@[simp] theorem areaOf_code (a : Area) : areaOf a.code = some a := by cases a <;> rfl

/-- The KIND byte of a master kind names it. -/
@[simp] theorem masterKindOf_code (k : MasterKind) : masterKindOf k.code = some k := by cases k <;> rfl

/-! ### Expiries -/

/-- A port's T_seg has run out just when its expiry is due. -/
theorem segDue_iff (s : State) (p : Port) : (s.port p).segDue.isSome = true ↔ Due s (.tSegExpiry p) := by
  unfold PortState.segDue Due
  constructor
  · intro h
    split at h
    · next h1 h2 h3 => exact ⟨h1, by simp [h2], h3⟩
    · cases h
  · rintro ⟨h1, h2, h3⟩
    obtain ⟨x, hx⟩ := Option.isSome_iff_exists.mp h2
    simp [h1, hx, h3]

/-- A port's T_ack has run out just when its expiry is due. -/
theorem ackDue_iff (s : State) (p : Port) : (s.port p).ackDue.isSome = true ↔ Due s (.tAckExpiry p) := by
  unfold PortState.ackDue Due
  constructor
  · intro h
    split at h
    · next h1 h2 h3 => exact ⟨h1, by simp [h2], h3⟩
    · cases h
  · rintro ⟨h1, h2, h3⟩
    obtain ⟨x, hx⟩ := Option.isSome_iff_exists.mp h2
    simp [h1, hx, h3]

/-- A port's T_ntc has run out just when its expiry is due. -/
theorem noticeDue_iff (s : State) (p : Port) : (s.port p).noticeDue.isSome = true ↔ Due s (.tNtcExpiry p) := by
  unfold PortState.noticeDue Due
  split
  · next h => simp [h.1, h.2]
  · next h =>
    simp only [Option.isSome_none, Bool.false_eq_true, false_iff]
    exact fun k => h ⟨k.1, k.2.2⟩

/-- A lease has run out just when its expiry is due. -/
theorem leaseDue_iff (s : State) (id : Byte) :
    (s.holds.find? fun h => h.id = id && h.runOut).isSome = true ↔ Due s (.leaseExpiry id) := by
  simp [Due, Hold.runOut]

/-- A measurement has reached its filter time just when its expiry is due. -/
theorem measurementDue_iff (s : State) (n : Line) :
    ((s.line n).due (s.image.filterTime n)).isSome = true ↔ Due s (.measurementExpiry n) := by
  show _ ↔ ∃ m, (s.line n).measuring = some m ∧ (s.image.liveWord n.val).toNat ≤ m.held
  unfold LineFilter.due Image.filterTime
  generalize (s.line n).measuring = running
  cases running <;> simp

/-- A refresh timer has run out just when its expiry is due. -/
theorem refreshDue_iff (s : State) (g : Group) : (s.group g).due = true ↔ Due s (.refreshTimerExpiry g) := by
  simp [GroupState.due, Due]

/-- A wait of a port that the search finds is due. -/
theorem PortState.dueExpiry_due {s : State} {p : Port} {c : Instr} (h : (s.port p).dueExpiry p = some c) : Due s c := by
  unfold PortState.dueExpiry at h
  split at h
  · next k => cases h; exact (segDue_iff s p).mp k
  · split at h
    · next k => cases h; exact (ackDue_iff s p).mp k
    · split at h
      · next k => cases h; exact (noticeDue_iff s p).mp k
      · cases h

/-- What the search of an empty queue finds is due. -/
theorem State.dueExpiry_due {s : State} {c : Instr} (h : s.dueExpiry = some c) : s.resetLow = false ∧ Due s c := by
  unfold State.dueExpiry at h
  split at h
  · cases h
  · next hr =>
    refine ⟨by simpa using hr, ?_⟩
    simp only [Option.orElse_eq_orElse, Option.orElse_eq_or, Option.or_eq_some_iff, Option.map_eq_some_iff] at h
    rcases h with h | ⟨_, h | ⟨_, ⟨n, hn, rfl⟩ | ⟨_, g, hg, rfl⟩⟩⟩
    · obtain ⟨p, _, hp⟩ := List.exists_of_findSome?_eq_some h
      exact PortState.dueExpiry_due hp
    · obtain ⟨x, hx, rfl⟩ := h
      exact ⟨x, List.mem_of_find?_eq_some hx, rfl, by simpa [Hold.runOut] using List.find?_some hx⟩
    · exact (measurementDue_iff s n).mp (by simpa using List.find?_some hn)
    · exact (refreshDue_iff s g).mp (by simpa using List.find?_some hg)

/-- The search of an empty queue finds nothing only when nothing is due. -/
theorem State.dueExpiry_none {s : State} (hr : s.resetLow = false) (h : s.dueExpiry = none) (c : Instr) : ¬Due s c := by
  unfold State.dueExpiry at h
  simp only [hr, Bool.false_eq_true, if_false, Option.orElse_eq_orElse, Option.orElse_eq_or, Option.or_eq_none_iff,
    Option.map_eq_none_iff, List.findSome?_eq_none_iff, List.find?_eq_none] at h
  obtain ⟨hp, hh, hl, hg⟩ := h
  have ports (p : Port) : (s.port p).dueExpiry p = none := hp p (by revert p; decide)
  intro hd
  cases c with
  | tSegExpiry p => have := ports p; simp [PortState.dueExpiry, (segDue_iff s p).mpr hd] at this
  | tAckExpiry p =>
    have := ports p
    unfold PortState.dueExpiry at this
    split at this
    · cases this
    · simp [(ackDue_iff s p).mpr hd] at this
  | tNtcExpiry p =>
    have := ports p
    unfold PortState.dueExpiry at this
    split at this
    · cases this
    · split at this
      · cases this
      · simp [(noticeDue_iff s p).mpr hd] at this
  | leaseExpiry id => obtain ⟨x, hx, _, h0⟩ := hd; exact hh x hx (by simp [Hold.runOut, h0])
  | refreshTimerExpiry g => exact hg g (by clear hd; revert g; decide) ((refreshDue_iff s g).mpr hd)
  | measurementExpiry n => exact hl n (List.mem_finRange n) ((measurementDue_iff s n).mpr hd)
  | _ => exact hd

end Sys2Proof.Machine
end

