-- ==== Sys2Proof/Tests/Slice0.lean ====
section
/-! SUPPORT. Small tests: values the manual works out, the well-formedness checks, and for every statement with
hypotheses a state and operands that meet them. -/

namespace Sys2Proof.Tests

open Sys2Proof.Machine

set_option Elab.async false

/-! ### Values the manual gives -/

/-- The check value of R61. -/
theorem test_crc_check_value :
    crc16 [0x31, 0x32, 0x33, 0x34, 0x35, 0x36, 0x37, 0x38, 0x39] = 0x29B1 := by decide +kernel

/-- The PING frame whose bytes 04_link_framing.md works out. -/
theorem test_ping_frame : frameBytes MasterKind.req.code (Request.ping.payload 0x21) =
    [0xC3, 0x52, 0x02, 0x21, 0x0B, 0xF6, 0x4F] := by decide +kernel

/-- The worked word of 01_the_shared_image.md. -/
theorem test_mask_word : maskWord 0x12F0 0x0F0F 0x00FF = 0x1F0F := by decide +kernel

/-- The worked grant of 02_holds.md: with 255, 1 and 2 in use the counter goes from 254 to 3. -/
theorem test_next_id : advanceId [254, 255, 1, 2] 254 = 3 := by decide +kernel

/-- The lengths of the worked transfers of 05_transfer_sessions.md (R87), the DATs of a 70 word WRITE and of a 40 pair MWRITE. -/
theorem test_segment_lengths :
    (List.range (segmentCount .write 70)).map (expectedLen .write 70) = [66, 66, 14] ∧
      (List.range (segmentCount .mwrite 40)).map (expectedLen .mwrite 40) = [66, 66, 34] := by decide +kernel

/-- The levels of a character, parity off and even (R60). -/
theorem test_character_levels :
    charLevels false 0xC3 = [false, true, true, false, false, false, false, true, true, true] ∧
      charLevels true 0x01 =
        [false, true, false, false, false, false, false, false, false, true, true] := by decide +kernel

/-! ### Well-formedness -/

theorem test_refuses_badOperation_too_long :
    (Instr.badOperation 0 1 0 (List.replicate 129 0)).wellFormed = false := by decide +kernel

theorem test_refuses_badOperation_that_is_ping : (Instr.badOperation 0 1 11 []).wellFormed = false := by decide +kernel

theorem test_refuses_dat_too_long : (Instr.dat 0 (List.replicate 131 0)).wellFormed = false := by decide +kernel

theorem test_refuses_ack_too_long : (Instr.ack 0 (List.replicate 131 0)).wellFormed = false := by decide +kernel

theorem test_refuses_nak_too_long : (Instr.nak 0 (List.replicate 131 0)).wellFormed = false := by decide +kernel

theorem test_refuses_abt_too_long : (Instr.abt 0 (List.replicate 131 0)).wellFormed = false := by decide +kernel

theorem test_refuses_nta_too_long : (Instr.nta 0 (List.replicate 131 0)).wellFormed = false := by decide +kernel

theorem test_admits_the_longest : (Instr.dat 0 (List.replicate 130 0)).wellFormed = true ∧
    (Instr.badOperation 0 1 12 (List.replicate 128 0)).wellFormed = true ∧
    (Instr.badOperation 0 1 11 [0]).wellFormed = true := by decide +kernel

/-! ### States the witnesses use -/

/-- The command answers a next state, and `f` holds of it. -/
def answers (o : Host.Outcome State Fault Refusal) (f : State → Bool) : Bool :=
  match o with
  | .next t => f t
  | .fault _ => false
  | .refused _ => false

/-- The part after reset with port 0 changed. -/
def port0 (f : PortState → PortState) : State := State.reset.modPort 0 f

/-- Port 0 with its receiver in an assembly state. -/
def inAssembly (a : Assembly) : State :=
  port0 fun ps => { ps with rx := { ps.rx with assembly := a, gapTiming := true } }

/-- Port 0 held. -/
def heldPort : State := inAssembly .brk

/-- A frame in progress. -/
def onLine (f : TxFrame) : Sending := { frame := f, wire := frameBytes f.kind.code f.payload }

/-- A transfer of 33 words or pairs of WRD, 2 or 3 segments, at its first. -/
def transferOf (op : TransferOp) : Transfer :=
  { request := op.request 5 3 0 0 33, op := op, area := .wrd, edit := false, first := 0, count := 33, seq := 0,
    retry := 0, retryLimit := 3, wait := 500, target := none, snapGen := none, closing := false }

/-- Port 0 receiving. -/
def receiving (t : Transfer) : State :=
  port0 fun ps => { ps with session := .receiving, transfer := some t, tSeg := some 500 }

/-- A READ after its snapshot, and port 0 sending it. -/
def readTransfer : Transfer := { transferOf .read with snapGen := some 0 }

def sending (t : Transfer) : State :=
  port0 fun ps =>
    { ps with session := .sending, transfer := some t, tAck := some 500, buffer := List.replicate 33 0 }

/-- Port 0 committing, its claim first at the arbiter. -/
def committing (op : WriteOp) (region : Region) (first count : Nat) : State :=
  { port0 fun ps =>
      { ps with session := .committing, transfer := some (transferOf .write), buffer := List.replicate 64 1 } with
    claims := [[.commit 0 op region first count]] }

/-- Port 0 pending, its claim first at the arbiter. -/
def pendingBank (c : Claim) : State :=
  { port0 fun ps => { ps with bankRequest := some (.owed [5, 9]) } with claims := [[c]] }

/-- `n` one-word holds of a port in WRD, ids and words from `i` up. -/
def holdsOf (p : Port) (i n : Nat) : List Hold :=
  (List.range n).map fun k =>
    { id := BitVec.ofNat 8 (i + k), owner := p, area := .wrd, first := i + k, last := i + k, lease := 100 }

/-- The image with the notice-enable bits at 0: the edit bank of such words made live. -/
def silentImage : Image := { Image.reset with bank0 := [(54, 0)] }

/-- A CHANGE entry, unsent. -/
def changeEntry (id : Byte) : Notice :=
  { kind := .change, refId := id, area := .wrd, first := 0, last := 0, gen := 1, cause := 1, sent := none }

/-- The entry after its first transmission. -/
def sentEntry : Notice := { changeEntry 1 with sent := some { seq := 0, lost := 0 } }

/-- Port 0 in NOTIFYING with its NTC sent and T_ntc running. -/
def notifying (rest : List Notice) : State :=
  port0 fun ps =>
    { ps with session := .notifying, notice := { ps.notice with queue := sentEntry :: rest, tNtc := some 200 } }

/-- Port 0 with nothing left of its running waits. -/
def timedOut (s : State) : State :=
  s.modPort 0 fun ps =>
    { ps with
      tSeg := ps.tSeg.map fun _ => 0
      tAck := ps.tAck.map fun _ => 0
      notice := { ps.notice with tNtc := ps.notice.tNtc.map fun _ => 0 } }

/-! ### Witnesses: the queue, the clock, the pins -/

theorem test_meets_StepRunsFrontCommand :
    { State.reset with pending := [.ping 0 1] }.pending = .ping 0 1 :: [] := by decide +kernel

/-- Port 0 with the NTC of its outstanding notice waiting for a free transmitter. -/
def noticeWaits : State :=
  (notifying []).modPort 0 fun ps => { ps with tx := { ps.tx with slot := some (ntcFrame sentEntry) } }

theorem test_meets_EmptyQueueLetsTimePass :
    (noticeWaits.pending = [] ∧ noticeWaits.resetLow = false ∧ FrameWaits (noticeWaits.port 0) ∧
        ¬FrameWaits (noticeWaits.port 1)) ∧
      (State.reset.pending = [] ∧ State.reset.resetLow = false ∧ (∀ p, ¬FrameWaits (State.reset.port p)) ∧
        ∀ c, ¬Due State.reset c) ∧
      { State.reset with resetLow := true }.pending = [] ∧
      (let s := timedOut (receiving (transferOf .write))
       s.pending = [] ∧ s.resetLow = false ∧ (∀ p, (s.port p).tx.queue = [] ∧ (s.port p).tx.slot = none) ∧
         Due s (.tSegExpiry 0)) ∧
      isExpiry (.tSegExpiry 0) = true ∧ ¬Due (receiving (transferOf .write)) (.tSegExpiry 0) := by
  have waits : ∀ p, (State.reset.port p).tSeg = none ∧ (State.reset.port p).tAck = none ∧
      (State.reset.port p).notice.tNtc = none := by decide +kernel
  have lines : ∀ n, (State.reset.line n).measuring = none := by decide +kernel
  have groups : ∀ g, (State.reset.group g).timer = none := by decide +kernel
  refine ⟨by decide +kernel, ⟨rfl, rfl, by decide +kernel, fun c => ?_⟩, rfl, ⟨rfl, rfl, by decide +kernel, rfl, rfl, rfl⟩,
    rfl, fun h => absurd h.2.2 (by decide +kernel)⟩
  cases c <;> simp [Due, waits, lines, groups, show State.reset.holds = [] from rfl]

/-- A measurement a millisecond short of its filter time of 5 ms is not settled by its expiry row, and is one millisecond
later (R136). -/
theorem test_expiry_is_not_early :
    let s := State.reset.setLine 0
      { level := true, settled := false, measuring := some { candidate := true, held := 4 }, update := .none }
    exec (.measurementExpiry 0) s = .next s ∧ s.tick.dueExpiry = some (.measurementExpiry 0) :=
  ⟨rfl, by decide +kernel⟩

theorem test_meets_ResetLowStopsThePart :
    { State.reset with resetLow := true }.resetLow = true ∧ Instr.ping 0 1 ≠ .resetNAssert ∧
      ∀ rate par, Instr.ping 0 1 ≠ .resetNRelease rate par :=
  ⟨rfl, by decide, nofun⟩

/-! ### Witnesses: characters and frames -/

theorem test_meets_StartBitEndsTheGap :
    (∃ s : State, s.resetLow = false ∧ (s.port 0).rx.assembly ≠ .brk ∧ (s.port 0).rx.awaitMark = false) ∧
      ∃ s : State, s.resetLow = false ∧ (s.port 0).rx.assembly = .brk :=
  ⟨⟨State.reset, by decide +kernel⟩, ⟨heldPort, by decide +kernel⟩⟩

theorem test_meets_CharactersMoveAssembly :
    (∀ a ∈ [Assembly.hunt, .kind, .length 0x52, .payload 0x52 2 [] 2, .payload 0x52 2 [0] 1, .check 0x52 0 [] none],
      Listens (inAssembly a) 0 ∧ ((inAssembly a).port 0).rx.awaitMark = false ∧
        ((inAssembly a).port 0).rx.assembly = a ∧ (inAssembly a).parity = false) ∧
      (Listens (inAssembly (.check 0x52 0 [] (some 0))) 0 ∧ crc16 [0x52, 0] ≠ wordOf 0 0) ∧
      Listens (inAssembly (.check 0x72 0 [] (some 0))) 0 := by decide +kernel

/-- A LEN of 131 is counted as a discard, and one of 130 is not. -/
theorem test_length_too_long :
    answers (exec (.characterReceived 0 131 false true) (inAssembly (.length 0x52)))
        (fun t => (t.port 0).counters.crcDiscards = 1) ∧
      answers (exec (.characterReceived 0 130 false true) (inAssembly (.length 0x52)))
        (fun t => (t.port 0).counters.crcDiscards = 0) := by decide +kernel

/-- The lengths where the clauses meet: 0, 1, 130 and 131. -/
theorem test_length_boundaries :
    (Assembly.length 0x44).take 0 = (.check 0x44 0 [] none, .goesOn) ∧
      (Assembly.length 0x44).take 1 = (.payload 0x44 1 [] 1, .goesOn) ∧
      (Assembly.length 0x44).take 130 = (.payload 0x44 130 [] 130, .goesOn) ∧
      (Assembly.length 0x44).take 131 = (.hunt, .discarded) := by decide +kernel

theorem test_meets_FrameBytesBringTheFrame :
    frameOf (.dat 0 (List.replicate 130 0)) = some (0, .dat, List.replicate 130 0) ∧
      (List.replicate 130 (0 : Byte)).length ≤ 130 ∧ State.reset.resetLow = false ∧
      (State.reset.port 0).rx =
        { assembly := .hunt, gapTiming := false, inCharacter := false, awaitMark := false, line := .mark } := by
  decide +kernel

theorem test_meets_FaultsDiscardTheFrame :
    (∀ a ∈ [Assembly.hunt, .kind],
      Listens { inAssembly a with parity := true } 0 ∧ ((inAssembly a).port 0).rx.awaitMark = false ∧
        ((inAssembly a).port 0).rx.assembly = a ∧ true ≠ parityOf 0) ∧
      (heldPort.resetLow = false ∧ (heldPort.port 0).rx.assembly = .brk) ∧
      (Listens (inAssembly .kind) 0 ∧ ((inAssembly .kind).port 0).rx.gapTiming = true) := by decide +kernel

theorem test_meets_BreakResetsThePort :
    (Listens (committing .write .wrd 0 33) 0 ∧ ((committing .write .wrd 0 33).port 0).session = .committing ∧
        ∀ x ∈ ((committing .write .wrd 0 33).port 0).transfer, x.closing = false) ∧
      Listens (sending readTransfer) 0 ∧ ((sending readTransfer).port 0).session ≠ .committing := by decide +kernel

/-- A held port with an entry to send. -/
def heldWithEntry : State :=
  heldPort.modPort 0 fun ps => { ps with notice := { ps.notice with queue := [changeEntry 1] } }

theorem test_meets_BreakEndFreesTheReceiver :
    (State.reset.resetLow = false ∧ (State.reset.port 0).rx.assembly ≠ .brk) ∧
      (heldPort.resetLow = false ∧ (heldPort.port 0).rx.assembly = .brk ∧
        (heldPort.port 0).tx = { sending := none, queue := [], slot := none } ∧ (heldPort.port 0).notice.queue = []) ∧
      (heldWithEntry.resetLow = false ∧ (heldWithEntry.port 0).rx.assembly = .brk ∧
        (heldWithEntry.port 0).tx = { sending := none, queue := [], slot := none } ∧
        heldWithEntry.enabled 0 = true ∧ (heldWithEntry.port 0).session = .idle ∧
        (heldWithEntry.port 0).bankRequest = none ∧ (heldWithEntry.port 0).notice.paused = false ∧
        (heldWithEntry.port 0).notice.queue = [changeEntry 1] ∧ (changeEntry 1).sent = none) := by decide +kernel

/-- Port 0 with a frame on its line and others behind it. -/
def transmitting (s : State) (f : TxFrame) (queue : List TxFrame) (slot : Option TxFrame) : State :=
  s.modPort 0 fun ps => { ps with tx := { sending := some (onLine f), queue := queue, slot := slot } }

/-- A BUSY reply. -/
def busyFrame : TxFrame := rspFrame [1] 0x10 [0, 0]

theorem test_meets_TransmitterTakesSessionFramesFirst :
    (∀ behind ∈ [([busyFrame], none), ([], some (ntcFrame sentEntry)), ([], none)],
      let s := transmitting State.reset busyFrame behind.1 behind.2
      Listens s 0 ∧ (s.port 0).tx.sending = some (onLine busyFrame) ∧ (onLine busyFrame).frame.origin = .reply ∧
        (s.port 0).notice.queue = [] ∧ (s.port 0).tx.queue = behind.1 ∧ (s.port 0).tx.slot = behind.2) ∧
      ∀ behind ∈ [[busyFrame], []], ∀ e ∈ [changeEntry 1, sentEntry],
        let f := finFrame 5 0 1 0
        let s := (transmitting (receiving { transferOf .write with closing := true }) f behind none).modPort 0 fun ps =>
          { ps with notice := { ps.notice with queue := [e] } }
        Listens s 0 ∧ (s.port 0).tx.sending = some (onLine f) ∧ (onLine f).frame.origin = .closing ∧
          (s.port 0).transfer.any Transfer.closing = true ∧ s.enabled 0 = true ∧ (s.port 0).notice.paused = false ∧
          (s.port 0).bankRequest = none ∧ (s.port 0).notice.queue = [e] ∧ (s.port 0).tx.queue = behind := by
  decide +kernel

theorem test_meets_TransmitterTakesSessionFramesFirst_free :
    (Listens State.reset 0 ∧ (State.reset.port 0).tx = { sending := none, queue := [], slot := none }) ∧
      (Listens noticeWaits 0 ∧ (noticeWaits.port 0).tx.sending = none ∧ FrameWaits (noticeWaits.port 0)) := by
  decide +kernel

theorem test_meets_FinSentClosesTheTransfer :
    let x := { transferOf .write with closing := true }
    let f := finFrame x.tag 0 1 0
    let s := transmitting (receiving x) f [] none
    Listens s 0 ∧ (s.port 0).tx.sending = some (onLine f) ∧ (onLine f).frame.origin = .closing ∧
      (s.port 0).transfer = some x ∧ x.closing = true := by decide +kernel

theorem test_meets_SentFramesStartTheirWaits :
    (∀ seq ∈ [0, 1],
      let f := readFrame 5 seq []
      let s := transmitting (sending readTransfer) f [] none
      Listens s 0 ∧ (s.port 0).tx.sending = some (onLine f) ∧ Open s 0 .sending readTransfer ∧
        readTransfer.snapGen.isSome = true ∧ (onLine f).frame.origin = .segment seq) ∧
      let f := ntcFrame sentEntry
      let s := transmitting (notifying []) f [] none
      Listens s 0 ∧ (s.port 0).tx.sending = some (onLine f) ∧ (onLine f).frame.origin = .notice ∧
        (s.port 0).session = .notifying ∧ (s.port 0).notice.outstanding.isSome = true := by decide +kernel

/-! ### Witnesses: requests -/

theorem test_meets_PingReportsThePart :
    (Performs State.reset 0 (Request.ping.payload 1) ∧ (State.reset.port 0).notice.queue = []) ∧
      (∀ e ∈ [changeEntry 1, sentEntry],
        let s := (notifying []).modPort 0 fun ps => { ps with notice := { ps.notice with queue := [e] } }
        Performs s 0 (Request.ping.payload 1) ∧ s.enabled 0 = true ∧ (s.port 0).notice.queue = [e]) := by
  decide +kernel

/-- Port 0 with a record. -/
def recorded (x : Exchange) : State := port0 fun ps => { ps with record := some x }

theorem test_meets_RecordAnswersRepeats :
    (let x : Exchange := { request := [1, 11], replyKind := .rsp, reply := [1, 1] }
     frameOf (.ping 0 1) = some (0, .req, [1, 11]) ∧ Listens (recorded x) 0 ∧ AtRest ((recorded x).port 0) ∧
       ((recorded x).port 0).record = some x ∧ x.request = [1, 11]) ∧
      ∀ op ∈ [TransferOp.write, .mwrite],
        let y : Exchange := { request := op.request 5 3 0 0 33, replyKind := .fin, reply := [5, 0, 0, 0, 0, 1, 0] }
        Listens (recorded y) 0 ∧ AtRest ((recorded y).port 0) ∧ ((recorded y).port 0).record = some y ∧
          y.replyKind = .fin ∧ op ≠ .read ∧ (BitVec.ofNat 8 (if op = .write then 1 else 2)).toNat = segmentCount op 33 - 1 := by
  decide +kernel

theorem test_meets_RequestAtAPortInUse :
    (∀ s ∈ [receiving (transferOf .write), sending readTransfer, committing .write .wrd 0 33, pendingBank (.swap 0)],
      frameOf (.ping 0 1) = some (0, .req, [1, 11]) ∧ Listens s 0 ∧
        ((s.port 0).session = .receiving ∨ (s.port 0).session = .sending ∨ (s.port 0).session = .committing ∨
          (s.port 0).session = .idle ∧ (s.port 0).bankRequest.isSome = true) ∧
        (∀ x ∈ (s.port 0).transfer, x.request ≠ [1, 11]) ∧ (s.port 0).tx.queue.length < 4) ∧
      ∀ x ∈ [transferOf .read, readTransfer, { readTransfer with closing := true }],
        frameOf (.read 0 5 3 0 0 33) = some (0, .req, x.request) ∧ Listens (sending x) 0 ∧
          ((sending x).port 0).transfer = some x ∧ ((sending x).port 0).session = .sending ∧
          ((sending x).port 0).tx.queue.length < 4 := by decide +kernel

theorem test_meets_FullQueueRemovesTheOldest :
    ∀ xf ∈ [(readTransfer, busyFrame), (readTransfer, readFrame 5 0 []),
        ({ readTransfer with closing := true }, finFrame 5 0 0 0)],
      let s := transmitting (sending xf.1) busyFrame (xf.2 :: List.replicate 3 busyFrame) none
      frameOf (.ping 0 1) = some (0, .req, [1, 11]) ∧ Listens s 0 ∧ (s.port 0).session = .sending ∧
        (s.port 0).bankRequest = none ∧ (s.port 0).transfer = some xf.1 ∧ xf.1.request ≠ [1, 11] ∧
        (s.port 0).tx.sending.isSome = true ∧ (s.port 0).tx.queue = xf.2 :: List.replicate 3 busyFrame := by
  decide +kernel

theorem test_meets_BadRequestIsRefused :
    (frameOf (.ping 0 0) = some (0, .req, [0, 11]) ∧ Listens State.reset 0 ∧ AtRest (State.reset.port 0) ∧
        tagOf [0, 11] = 0 ∧ ∀ x ∈ (State.reset.port 0).record, x.request ≠ [0, 11]) ∧
      (∀ i ∈ [Instr.badOperation 0 1 12 [], .badOperation 0 1 0 [], .badOperation 0 1 11 [0]], i.wellFormed = true) ∧
      Performs State.reset 0 [1, 12] := by decide +kernel

/-! ### Witnesses: holds -/

/-- The part with a Hold Table. -/
def withHolds (holds : List Hold) : State := { State.reset with holds := holds, nextId := 100 }

theorem test_meets_HoldIsGranted :
    ∀ holds ∈ [[], holdsOf 0 0 7 ++ holdsOf 1 7 8],
      let s := withHolds holds
      Performs s 0 ((Request.hold Area.wrd.code 1023 1 600).payload 1) ∧ 1023 + 1 ≤ Area.wrd.size ∧
        (∀ h ∈ s.holds, ¬h.meets .wrd 1023 1) ∧ (s.holds.filter fun h => h.owner = 0).length < 8 ∧
        s.holds.length < 16 ∧ s.nextId ≠ 0 := by decide +kernel

theorem test_meets_HoldIsRefusedInOrder :
    (∀ area ∈ [1, 5, 0], Performs State.reset 0 ((Request.hold area 0 1 1).payload 1) ∧
        area ≠ 2 ∧ area ≠ 3 ∧ area ≠ 4) ∧
      Performs State.reset 0 ((Request.hold 3 1023 2 1).payload 1) ∧
      Performs State.reset 0 ((Request.hold 3 0 0 1).payload 1) ∧
      Performs State.reset 0 ((Request.hold 3 0 1 0).payload 1) ∧
      Performs State.reset 0 ((Request.hold 3 0 1 601).payload 1) ∧
      (let s := withHolds (holdsOf 1 5 2)
       Performs s 0 ((Request.hold 3 5 2 1).payload 1) ∧
         LowestId s.holds (fun h => h.owner ≠ 0 ∧ h.meets .wrd 5 2) 5) ∧
      (let s := withHolds (holdsOf 0 5 2)
       Performs s 0 ((Request.hold 3 6 1 1).payload 1) ∧
         (∀ h ∈ s.holds, h.owner ≠ 0 → ¬h.meets .wrd 6 1) ∧
         LowestId s.holds (fun h => h.owner = 0 ∧ h.meets .wrd 6 1) 6) ∧
      (let s := withHolds (holdsOf 0 0 8)
       Performs s 0 ((Request.hold 3 1023 1 1).payload 1) ∧ (∀ h ∈ s.holds, ¬h.meets .wrd 1023 1) ∧
         8 ≤ (s.holds.filter fun h => h.owner = 0).length) ∧
      (let s := withHolds (holdsOf 1 0 8 ++ holdsOf 2 8 8)
       Performs s 0 ((Request.hold 3 1023 1 1).payload 1) ∧ (∀ h ∈ s.holds, ¬h.meets .wrd 1023 1) ∧
         (s.holds.filter fun h => h.owner = 0).length < 8 ∧ 16 ≤ s.holds.length) := by
  (repeat' apply And.intro) <;> decide +kernel

theorem test_meets_HoldIsReleasedOrRenewed :
    (∀ r ∈ [Request.release 5, .renew 5 1], Performs State.reset 0 (r.payload 1)) ∧
      (∀ p ∈ [0, 1], ∀ r ∈ [Request.release 5, .renew 5 0, .renew 5 1, .renew 5 600, .renew 5 601],
        Performs (withHolds (holdsOf p 5 1)) 0 (r.payload 1)) ∧
      ∀ p ∈ [0, 1],
        (withHolds (holdsOf p 5 1)).holds.find? (fun h => h.id = 5) =
          some { id := 5, owner := p, area := .wrd, first := 5, last := 5, lease := 100 } := by
  (repeat' apply And.intro) <;> decide +kernel

theorem test_meets_LeaseExpiryTellsTheOwner :
    let h : Hold := { id := 5, owner := 0, area := .wrd, first := 5, last := 5, lease := 0 }
    (withHolds [h]).resetLow = false ∧ (withHolds [h]).holds.find? (fun h => h.id = 5) = some h ∧ h.lease = 0 := by
  decide +kernel

/-! ### Witnesses: subscriptions and transfers -/

/-- Subscriptions to single words of WRD, in every place or in the first alone. -/
def subscribed (p : Port) (full : Bool) : State :=
  State.reset.modPort p fun ps =>
    { ps with
      notice := { ps.notice with
        subs := Vector.ofFn fun i : Fin 4 =>
          if full ∨ i = 0 then some { area := .wrd, edit := false, noself := true, first := i.val, last := i.val }
          else none } }

theorem test_meets_SubscriptionsComeAndGo :
    (∀ area ∈ [0, 5, 6], Performs State.reset 0 ((Request.subscribe area 0 0 1).payload 1) ∧
        area ≠ 1 ∧ area ≠ 2 ∧ area ≠ 3 ∧ area ≠ 4) ∧
      Performs State.reset 0 ((Request.subscribe 3 0 1023 2).payload 1) ∧
      Performs State.reset 0 ((Request.subscribe 3 0 0 0).payload 1) ∧
      (let s := subscribed 0 true
       Performs s 0 ((Request.subscribe 3 2 0 1).payload 1) ∧
         (s.port 0).notice.subs.get 0 = some { area := .wrd, edit := false, noself := true, first := 0, last := 0 } ∧
         Performs s 0 ((Request.subscribe 3 2 1023 1).payload 1) ∧ (∀ i, (s.port 0).notice.subs.get i ≠ none) ∧
         ∀ j, (s.port 0).notice.subs.get j ≠
           some { area := .wrd, edit := false, noself := true, first := 1023, last := 1023 }) ∧
      (let s := subscribed 0 false
       Performs s 0 ((Request.subscribe 3 2 1023 1).payload 1) ∧ (s.port 0).notice.subs.get 1 = none ∧
         (∀ j : Fin 4, j < 1 → (s.port 0).notice.subs.get j ≠ none) ∧
         (∀ j, (s.port 0).notice.subs.get j ≠
           some { area := .wrd, edit := false, noself := true, first := 1023, last := 1023 }) ∧
         Performs s 0 ((Request.unsubscribe 1).payload 1) ∧ (s.port 0).notice.subs.get 0 ≠ none ∧
         Performs s 0 ((Request.unsubscribe 2).payload 1) ∧
         Performs s 0 ((Request.unsubscribe 0).payload 1)) := by
  (repeat' apply And.intro) <;> decide +kernel

theorem test_meets_SegmentsOfATransfer :
    1 ≤ TransferOp.read.limit ∧ segmentCount .read 256 = 8 ∧ segmentCount .mwrite 128 = 8 ∧
      segmentCount .write 1 = 1 ∧ expectedLen .write 1 0 = 4 ∧ expectedLen .mwrite 1 0 = 6 := by decide +kernel

theorem test_meets_TransferIsAccepted :
    ((Performs State.reset 0 (TransferOp.write.request 1 Area.wrd.code 0 768 256) ∧ 768 + 256 ≤ Area.wrd.size) ∧
      Performs State.reset 0 (TransferOp.mwrite.request 1 Area.wrd.code 0 896 128) ∧
      Performs State.reset 0 (TransferOp.write.request 1 Area.prm.code 0 0 128) ∧
      Performs (notifying []) 0 (TransferOp.write.request 1 Area.out.code 0 1 1) ∧
      ∀ h ∈ (withHolds (holdsOf 1 5 1)).holds, h.owner ≠ 0 → ¬h.meets .wrd 6 1) ∧
      ∀ area ∈ [Area.inp, .out, .wrd, .prm, .dia],
        Performs (notifying []) 0 ((Request.read area.code 1 0 2).payload 1) ∧ 0 + 2 ≤ area.size := by decide +kernel

theorem test_meets_TransferIsRefusedInOrder :
    (∀ area : Area, area.code ≠ 6) ∧
      (∀ op ∈ [TransferOp.read, .write, .mwrite],
        ∀ r ∈ [op.request 1 6 0 0 1, op.request 1 5 0 0 1, op.request 1 4 0 0 1, op.request 1 3 0 0 0,
            op.request 1 3 0 1023 2, op.request 1 3 0 0 257],
          Performs State.reset 0 r) ∧
      (∀ op ∈ [TransferOp.write, .mwrite], Performs (withHolds (holdsOf 1 5 2)) 0 (op.request 1 3 0 6 1)) ∧
      LowestId (withHolds (holdsOf 1 5 2)).holds (fun h => h.owner ≠ 0 ∧ h.meets .wrd 6 1) 6 :=
  ⟨fun a => by cases a <;> decide, by decide +kernel, by decide +kernel, by decide +kernel⟩

theorem test_meets_DatStoresTheSegment :
    let x := transferOf .write
    let last := { x with seq := 1 }
    (Open (receiving x) 0 .receiving x ∧ (0 : Byte).toNat = x.seq ∧
        2 + (List.replicate 64 (0 : Byte)).length = expectedLen x.op x.count x.seq ∧ x.seq + 1 < x.segments) ∧
      Open (receiving last) 0 .receiving last ∧ (1 : Byte).toNat = last.seq ∧
      2 + (List.replicate 2 (0 : Byte)).length = expectedLen last.op last.count last.seq ∧
      last.seq + 1 = last.segments ∧ last.commitRegion = some .wrd := by decide +kernel

theorem test_meets_DatOutOfSequence :
    let x := { transferOf .write with seq := 1, retry := 2 }
    let y := { x with retry := 3 }
    (Open (receiving x) 0 .receiving x ∧ (0 : Byte).toNat + 1 = x.seq) ∧
      ((2 : Byte).toNat ≠ x.seq ∧ (2 : Byte).toNat + 1 ≠ x.seq ∧ x.retry + 1 ≤ x.retryLimit) ∧
      (Open (receiving y) 0 .receiving y ∧ y.retryLimit < y.retry + 1) ∧
      2 + (List.replicate 3 (0 : Byte)).length ≠ expectedLen x.op x.count x.seq := by decide +kernel

theorem test_meets_AckSendsTheNextSegment :
    let x := readTransfer
    let last := { x with seq := 1 }
    (Open (sending x) 0 .sending x ∧ x.snapGen = some 0 ∧ ((sending x).port 0).buffer.length = x.count ∧
        x.seq + 1 < x.segments ∧ x.op = .read ∧ ((sending x).port 0).tx.queue.length < 4) ∧
      Open (sending last) 0 .sending last ∧ last.snapGen = some 0 ∧
      ((sending last).port 0).buffer.length = last.count ∧ last.segments ≤ last.seq + 1 := by decide +kernel

theorem test_meets_ReadSegmentIsSentAgain :
    ∀ retry ∈ [2, 3],
      let x := { readTransfer with retry := retry }
      let s := timedOut (sending x)
      Open s 0 .sending x ∧ x.op = .read ∧ x.snapGen = some 0 ∧ (0 : Byte).toNat = x.seq ∧
        (s.port 0).buffer.length = x.count ∧ (s.port 0).tx.queue.length < 4 ∧ (s.port 0).tAck = some 0 := by
  decide +kernel

theorem test_meets_TransferEndsWithoutACommit :
    (let s := timedOut (receiving (transferOf .mwrite))
     Open s 0 .receiving (transferOf .mwrite) ∧ (s.port 0).tSeg = some 0) ∧
      Open (sending readTransfer) 0 .sending readTransfer ∧ readTransfer.snapGen.isSome = true := by decide +kernel

/-- Each way in which a frame is out of place, at rest aside: a state of port 0, the kind, the payload. -/
def outOfPlace : List (State × MasterKind × List Byte) :=
  let x := transferOf .write
  let done := { x with closing := true }
  [(receiving x, .dat, [5]), (receiving x, .dat, [6, 0]), (receiving done, .dat, [5, 0]),
    (sending readTransfer, .dat, [5, 0]), (committing .write .wrd 0 33, .dat, [5, 1]), (receiving x, .ack, [5, 0]),
    (sending readTransfer, .ack, [6, 0]), (sending readTransfer, .nak, [5, 1]), (sending readTransfer, .ack, [5]),
    (sending (transferOf .read), .ack, [5, 0]), (sending { readTransfer with closing := true }, .nak, [5, 0]),
    (receiving x, .abt, [6]), (receiving x, .abt, [5, 5]), (receiving done, .abt, [5]),
    (committing .write .wrd 0 33, .abt, [5]), (sending (transferOf .read), .abt, [5]), (notifying [], .nta, [1]),
    (notifying [], .nta, [0, 0]), (State.reset, .nta, [0])]

theorem test_meets_FramesOutOfPlaceAreDropped :
    (∀ c ∈ outOfPlace,
      let ps := c.1.port 0
      Listens c.1 0 ∧
        (c.2.1 = .dat ∧
            (c.2.2.length < 2 ∨ ps.session = .sending ∨ ps.session = .committing ∨
              ps.session = .receiving ∧ ∀ x ∈ ps.transfer, x.closing = true ∨ x.tag ≠ tagOf c.2.2) ∨
          (c.2.1 = .ack ∨ c.2.1 = .nak) ∧
            (ps.session ≠ .sending ∨
              ∀ x ∈ ps.transfer, x.closing = true ∨ x.snapGen = none ∨ c.2.2 ≠ [x.tag, BitVec.ofNat 8 x.seq]) ∨
          c.2.1 = .abt ∧
            (∀ x ∈ ps.transfer,
              x.closing = true ∨ c.2.2 ≠ [x.tag] ∨
                ¬(ps.session = .receiving ∨ ps.session = .sending ∧ x.snapGen.isSome = true)) ∨
          c.2.1 = .nta ∧ ∀ e ∈ ps.notice.queue.head?, ∀ info ∈ e.sent, c.2.2 ≠ [info.seq])) ∧
      (∀ a ∈ [Instr.dat 0 [5], .ack 0 [5], .nak 0 [5], .abt 0 [5], .nta 0 [5]],
        (frameOf a).map (fun f => f.2.2) = some [5]) ∧
      (let y : Exchange :=
        { request := TransferOp.write.request 5 3 0 0 33, replyKind := .fin, reply := [5, 0, 0, 0, 0, 1, 0] }
       Listens (recorded y) 0 ∧ AtRest ((recorded y).port 0) ∧ ((recorded y).port 0).record = some y ∧
         (0 : Byte).toNat ≠ segmentCount .write 33 - 1) ∧
      (let crc := crc16 [0x52, 1, 7]
       let s := inAssembly (.check 0x52 1 [7] (some (hiByte crc)))
       Listens s 0 ∧ (s.port 0).rx.awaitMark = false ∧ s.parity = false ∧
         (s.port 0).rx.assembly = .check 0x52 1 [7] (some (hiByte crc)) ∧
         crc16 (0x52 :: 1 :: [7]) = wordOf (hiByte crc) (loByte crc)) := by
  refine ⟨by decide +kernel, by decide +kernel, by decide +kernel, by decide +kernel⟩

/-! ### Witnesses: notices -/

theorem test_meets_NtaAcknowledgesTheNotice :
    (∀ rest ∈ [[], [changeEntry 2]],
      let s := notifying rest
      Listens s 0 ∧ (s.port 0).notice.queue = sentEntry :: rest ∧ sentEntry.sent = some { seq := 0, lost := 0 } ∧
        (∀ x ∈ rest, x.sent = none) ∧ s.enabled 0 = true ∧ AtRest (s.port 0)) ∧
      { notifying [changeEntry 2] with image := silentImage }.enabled 0 = false := by decide +kernel

theorem test_meets_NoticeWaitRunsOut :
    (∀ retry ∈ [2, 3],
      let s := (timedOut (notifying [])).modPort 0 fun ps => { ps with notice := { ps.notice with retry := retry } }
      Listens s 0 ∧ (s.port 0).session = .notifying ∧ (s.port 0).notice.tNtc = some 0 ∧
        (s.port 0).notice.queue = [sentEntry] ∧ sentEntry.sent.isSome = true ∧ s.enabled 0 = true ∧
        (s.image.liveWord 53).toNat = 3) ∧
      { timedOut (notifying []) with image := silentImage }.enabled 0 = false := by decide +kernel

/-- After the expiry a READ takes the NTC back from the slot, unless it has begun meanwhile (R126, R129). -/
theorem test_request_takes_the_notice_back :
    answers (exec (.tNtcExpiry 0) (timedOut (notifying []))) fun t =>
      (t.port 0).notice.retry = 1 && (t.port 0).tx.slot = some (ntcFrame sentEntry) &&
        decide (Performs t 0 ((Request.read 3 0 0 1).payload 5)) &&
        answers (exec (.read 0 5 3 0 0 1) t) (fun u =>
          (u.port 0).tx = { sending := none, queue := [], slot := none } && (u.port 0).session = .sending) &&
        answers (step t) fun u =>
          (u.port 0).tx = { sending := some (onLine (ntcFrame sentEntry)), queue := [], slot := none } := by
  decide +kernel

/-- A notice queue with these entries. -/
def queueOf (queue : List Notice) : NoticeState := { NoticeState.reset with queue := queue }

theorem test_meets_ReportsMakeAndPlaceItems :
    ((queueOf (sentEntry :: List.replicate 7 (changeEntry 1))).queue =
        [sentEntry] ++ changeEntry 1 :: List.replicate 6 (changeEntry 1) ∧ (changeEntry 1).kind = .change ∧
        (changeEntry 1).sent = none ∧ ∀ x ∈ [sentEntry], ¬(x.kind = .change ∧ x.sent = none ∧ x.refId = 1)) ∧
      (∀ n ∈ [7, 8], ∀ x ∈ (queueOf (List.replicate n (changeEntry 1))).queue,
        ¬(x.kind = .change ∧ x.sent = none ∧ x.refId = (changeEntry 2).refId)) ∧
      [2, 5].Pairwise (· < ·) ∧ ([2, 5].filter fun i => 5 ≤ i && i ≤ 6) = [5] := by decide +kernel

/-- A full queue still takes a merge, and loses what does not merge (R119). -/
theorem test_full_queue :
    ((queueOf (List.replicate 8 (changeEntry 1))).place { changeEntry 1 with last := 3, cause := 2 }).queue.head? =
        some { changeEntry 1 with last := 3, cause := 15 } ∧
      ((queueOf (List.replicate 8 (changeEntry 1))).place (changeEntry 2)).lost = 1 := by decide +kernel

/-! ### Witnesses: the field -/

/-- The part with line 0 changed. -/
def line0 (f : LineFilter → LineFilter) : State := State.reset.setLine 0 (f (State.reset.line 0))

/-- A line that measures towards 1. -/
def measuringLine (u : UpdateState) (held : Nat) : State :=
  line0 fun l => { l with level := true, measuring := some { candidate := true, held := held }, update := u }

theorem test_meets_InputLineIsFiltered :
    (((measuringLine .none 4).resetLow = false ∧ false ≠ ((measuringLine .none 4).line 0).level ∧
        ((measuringLine .none 4).line 0).measuring.isSome = true) ∧
      (true ≠ (State.reset.line 0).level ∧ (State.reset.line 0).measuring = none ∧
        true ≠ (State.reset.line 0).settled ∧ 1 ≤ (State.reset.image.liveWord 0).toNat)) ∧
      ∀ u ∈ [UpdateState.none, .waiting, .waitingHeld],
        (let s := { line0 fun l => { l with update := u } with image := { Image.reset with bank0 := [(0, 0)] } }
         s.resetLow = false ∧ true ≠ (s.line 0).level ∧ (s.line 0).measuring = none ∧ true ≠ (s.line 0).settled ∧
           (s.image.liveWord 0).toNat = 0 ∧ (s.line 0).update = u) ∧
        (measuringLine u 5).resetLow = false ∧
        ((measuringLine u 5).line 0).measuring = some { candidate := true, held := 5 } ∧
        ((measuringLine u 5).image.liveWord 0).toNat ≤ 5 ∧ ((measuringLine u 5).line 0).update = u := by decide +kernel

theorem test_meets_InputUpdateWritesItsBit :
    (∀ u ∈ [UpdateState.waiting, .waitingHeld],
      let s := { line0 fun l => { l with update := u } with claims := [[.inputUpdate 0 true]] }
      s.resetLow = false ∧ Oldest s (.inputUpdate 0 true) [] [] [] ∧ (s.line 0).update = u ∧ s.enabled 0 = true) ∧
      ((0 : Line).val / 16 = 0 ∧ (31 : Line).val / 16 = 1) := by decide +kernel

/-- Group 0 armed, owned by port 1, in the live bank too. -/
def armedGroup (timer : Nat) : State :=
  { State.reset.setGroup 0 { mode := .armed, owner := 1, refresh := 20, timer := some timer } with
    image := { Image.reset with bank0 := [(32, 1), (40, 20)] } }

theorem test_meets_RefreshExpiryFallsBack :
    (armedGroup 0).resetLow = false ∧ ((armedGroup 0).group 0).mode = .armed ∧ ((armedGroup 0).group 0).timer = some 0 ∧
      OutputsSound (armedGroup 0) ∧ (1 : Port).val = ((armedGroup 0).group 0).owner.toNat := by decide +kernel

/-! ### Witnesses: the commit arbiter -/

theorem test_meets_CommitWritesItsWords :
    ∀ c ∈ [(WriteOp.write, Region.wrd, 0, 33), (.mwrite, .out, 0, 2), (.write, .prm .bank1, 127, 1),
        (.write, .wrd, 1023, 1)],
      let s := committing c.1 c.2.1 c.2.2.1 c.2.2.2
      s.resetLow = false ∧ Oldest s (.commit 0 c.1 c.2.1 c.2.2.1 c.2.2.2) [] [] [] ∧ c.2.1 ≠ .prm s.image.live ∧
        1 ≤ c.2.2.2 ∧ c.2.2.1 + c.2.2.2 ≤ c.2.1.area.size ∧
        (∀ h ∈ s.holds, h.owner ≠ 0 → ¬h.meets c.2.1.area c.2.2.1 c.2.2.2) ∧
        (s.port 0).session = .committing ∧ (s.port 0).transfer = some (transferOf .write) ∧
        (transferOf .write).closing = false ∧ (s.port 0).tx.noFin := by decide +kernel

theorem test_meets_CommitIsRefused :
    (let s := committing .write (.prm .bank0) 0 1
     Oldest s (.commit 0 .write (.prm .bank0) 0 1) [] [] [] ∧ Region.prm .bank0 = .prm s.image.live) ∧
      (let s := { committing .write .wrd 6 1 with holds := holdsOf 1 5 2 }
       Oldest s (.commit 0 .write .wrd 6 1) [] [] [] ∧ Region.wrd ≠ .prm s.image.live ∧
         LowestId s.holds (fun h => h.owner ≠ 0 ∧ h.meets .wrd 6 1) 6) := by
  (repeat' apply And.intro) <;> decide +kernel

theorem test_meets_CommitOfAResetPortIsSilent :
    ∀ c ∈ [(WriteOp.write, Region.wrd, 1023, 1), (.mwrite, .wrd, 1023, 1), (.write, .prm .bank1, 127, 1),
        (.write, .prm .bank0, 127, 1), (.write, .wrd, 5, 1)],
      let s := { (committing c.1 c.2.1 c.2.2.1 c.2.2.2).modPort 0 fun ps => { ps with transfer := none } with
        holds := holdsOf 1 5 1 }
      s.resetLow = false ∧ Oldest s (.commit 0 c.1 c.2.1 c.2.2.1 c.2.2.2) [] [] [] ∧
        c.2.2.1 + c.2.2.2 ≤ c.2.1.area.size ∧ (s.port 0).session = .committing ∧ (s.port 0).transfer = none ∧
        (c.2.1 = .wrd → c.2.2.1 = 1023 → ∀ h ∈ s.holds, ¬h.meets .wrd 1023 1) ∧
        (c.2.2.1 = 5 → ∃ h ∈ s.holds, h.owner ≠ 0 ∧ h.meets .wrd 5 1) := by decide +kernel

/-- Port 1 subscribed to word 0 of WRD alone while port 0 commits word 0. -/
def watchedCommit : State :=
  { subscribed 1 false with claims := [[.commit 0 .write .wrd 0 1]] }

theorem test_meets_CommitIsReported :
    watchedCommit.resetLow = false ∧ Oldest watchedCommit (.commit 0 .write .wrd 0 1) [] [] [] ∧
      Region.wrd ≠ .prm watchedCommit.image.live ∧ (∀ h ∈ watchedCommit.holds, h.owner = 0) ∧
      watchedCommit.enabled 1 = true ∧
      (watchedCommit.port 1).notice.subs.get 0 =
        some { area := .wrd, edit := false, noself := true, first := 0, last := 0 } ∧
      (∀ j : Fin 4, j ≠ 0 → (watchedCommit.port 1).notice.subs.get j = none) ∧
      (watchedCommit.port 1).notice.queue = [] ∧ (∀ i, (watchedCommit.port 2).notice.subs.get i = none) := by
  decide +kernel

/-- Port 0 subscribed to word 0 of WRD twice, once with NOSELF, with an unsent entry of the other. -/
def watchesItself : State :=
  { port0 fun ps =>
      { ps with
        notice := { ps.notice with
          subs := #v[some { area := .wrd, edit := false, noself := true, first := 0, last := 0 },
            some { area := .wrd, edit := false, noself := false, first := 0, last := 9 }, none, none]
          queue := [sentEntry, { changeEntry 2 with first := 4, last := 4 }] } } with
    claims := [[.commit 0 .write .wrd 0 2]] }

/-- A port's own commit reaches its subscription without NOSELF and merges into its unsent entry (R115, R119). -/
theorem test_own_commit_is_reported :
    answers (exec (.commit 0) watchesItself) fun t =>
      (t.port 0).notice.queue = [sentEntry, { changeEntry 2 with first := 0, last := 4, gen := 1, cause := 15 }] := by
  decide +kernel

theorem test_meets_CommitRefreshesGroups :
    (∀ p : Port,
      let s := { (armedGroup 0) with claims := [[.commit p .write .out 0 1]] }
      s.resetLow = false ∧ Oldest s (.commit p .write .out 0 1) [] [] [] ∧ (s.group 0).mode ≠ .unsupervised) ∧
      ((armedGroup 0).group 0).owner.toNat = (1 : Port).val ∧ (0 : Group).val / 4 < 0 + 1 := by decide +kernel

theorem test_meets_SnapshotCopiesTheRange :
    ∀ c ∈ [(Area.inp, false, 0, 2), (.out, false, 0, 2), (.wrd, false, 991, 33), (.prm, true, 95, 33),
        (.prm, false, 95, 33), (.dia, false, 0, 40)],
      let x := { transferOf .read with count := c.2.2.2 }
      let s := { sending x with claims := [[.snapshot 0 c.1 c.2.1 c.2.2.1 c.2.2.2]] }
      s.resetLow = false ∧ Oldest s (.snapshot 0 c.1 c.2.1 c.2.2.1 c.2.2.2) [] [] [] ∧ (s.port 0).session = .sending ∧
        (s.port 0).transfer = some x ∧ x.closing = false ∧ x.seq = 0 ∧ x.count = c.2.2.2 ∧
        (s.port 0).tx.queue.length ≤ 2 ∧ c.2.2.1 + c.2.2.2 ≤ c.1.size := by decide +kernel

/-- A SWAP waiting whose edit bank changes group 0 and lines 0 and 1. -/
def swapping : State :=
  { pendingBank (.swap 0) with
    image := { Image.reset with bank1 := [(0, 0), (1, 9), (32, 1), (40, 20)] }
    lines := (measuringLine .none 4).lines.set 1 ((measuringLine .none 4).line 0) }

/-- The same after a port reset of the port. -/
def orphaned (s : State) : State := s.modPort 0 fun ps => { ps with bankRequest := some .orphaned }

theorem test_meets_SwapExchangesTheBanks :
    swapping.resetLow = false ∧ Oldest swapping (.swap 0) [] [] [] ∧ (∀ h ∈ swapping.holds, h.area ≠ .prm) ∧
      (∀ i < 55, prmValid i (swapping.image.editWord i) = true) ∧ (swapping.port 0).session = .idle ∧
      (swapping.port 0).transfer = none ∧ (swapping.port 0).bankRequest = some (.owed [5, 9]) ∧
      ((orphaned swapping).port 0).bankRequest = some .orphaned ∧ (swapping.line 0).update = .none ∧
      (∀ n ∈ [(0 : Line), 1], (swapping.line n).measuring = some { candidate := true, held := 4 } ∧
        swapping.image.editWord n.val ≠ swapping.image.liveWord n.val) ∧
      (swapping.line 2).measuring = none ∧ swapping.image.editWord 32 ≠ (swapping.group 0).owner ∧
      swapping.image.editWord 33 = (swapping.group 1).owner := by decide +kernel

/-- A PRM hold of port 1. -/
def bankHold : List Hold := [{ id := 7, owner := 1, area := .prm, first := 0, last := 0, lease := 100 }]

theorem test_meets_BankOperationIsRefused :
    (∀ c ∈ [Claim.swap 0, .copy 0],
      let s := { pendingBank c with holds := bankHold }
      s.resetLow = false ∧ Oldest s c [] [] [] ∧ (s.port 0).session = .idle ∧ (s.port 0).transfer = none ∧
        (s.port 0).bankRequest = some (.owed [5, 9]) ∧ ((orphaned s).port 0).bankRequest = some .orphaned) ∧
      LowestId bankHold (fun h => h.owner ≠ 0 ∧ h.area = .prm) 7 ∧
      (∀ e ∈ [((0, (256 : Word)), 0), ((54, 16), 54)],
        let s := { pendingBank (.swap 0) with image := { Image.reset with bank1 := [e.1] } }
        s.resetLow = false ∧ Oldest s (.swap 0) [] [] [] ∧ (s.port 0).session = .idle ∧
          (s.port 0).transfer = none ∧ (s.port 0).bankRequest = some (.owed [5, 9]) ∧ s.holds = [] ∧
          prmValid e.2 (s.image.editWord e.2) = false ∧ ∀ j < e.2, prmValid j (s.image.editWord j) = true) := by
  (repeat' apply And.intro) <;> decide +kernel

theorem test_meets_CopyFillsTheEditBank :
    let s := pendingBank (.copy 0)
    s.resetLow = false ∧ Oldest s (.copy 0) [] [] [] ∧ (∀ h ∈ s.holds, h.area ≠ .prm) ∧
      (s.port 0).session = .idle ∧ (s.port 0).transfer = none ∧
      (s.port 0).bankRequest = some (.owed [5, 9]) ∧
      ((orphaned s).port 0).bankRequest = some .orphaned := by decide +kernel

/-- Port 1 with a subscription to PRM words 50 to 60 under EDIT, one entry queued, while port 0's SWAP or COPY waits; the
notice-enable words of the banks, live first. -/
def watchedBank (c : Claim) (live edit : Word) : State :=
  { (pendingBank c).modPort 1 fun ps =>
      { ps with
        notice := { ps.notice with
          subs := (Vector.replicate 4 none).set 0
            (some { area := .prm, edit := true, noself := false, first := 50, last := 60 })
          queue := [changeEntry 2] } } with
    image := { Image.reset with
      bank0 := if live = 15 then [] else [(54, live)]
      bank1 := if edit = 15 then [(52, 100)] else [(52, 100), (54, edit)] } }

theorem test_meets_BankOperationIsReported :
    (∀ c ∈ [(Claim.swap 0, (15 : Word), (15 : Word)), (.swap 0, 15, 0), (.swap 0, 0, 15), (.copy 0, 15, 15), (.copy 0, 0, 15)],
      let s := watchedBank c.1 c.2.1 c.2.2
      s.resetLow = false ∧ Oldest s c.1 [] [] [] ∧ s.holds = [] ∧ (∀ i < 55, prmValid i (s.image.editWord i) = true) ∧
        s.enabled 1 = decide (c.2.1 = 15) ∧
        (s.port 1).notice.subs.get 0 = some { area := .prm, edit := true, noself := false, first := 50, last := 60 } ∧
        s.image.liveWord 52 ≠ s.image.editWord 52 ∧
        (∀ k < 128, 50 ≤ k → k ≤ 60 → s.image.liveWord k ≠ s.image.editWord k → 52 ≤ k ∧ k ≤ 54) ∧
        (∀ x ∈ (s.port 1).notice.queue, x.refId ≠ 1) ∧ (∀ i, (s.port 2).notice.subs.get i = none)) ∧
      (let s := { (notifying []).modPort 0 fun ps =>
          { ps with tx := { ps.tx with slot := some (ntcFrame sentEntry) } } with image := Image.reset }
       s.enabled 0 = true ∧ (s.port 0).tx.slot.isSome = true ∧ (s.port 0).session = .notifying) ∧
      (let s := (watchedBank (.swap 0) 0 15).modPort 1 fun ps =>
          { ps with notice := { ps.notice with subs := Vector.replicate 4 none } }
       s.enabled 1 = false ∧ (s.port 1).free = true ∧ (s.port 1).notice.paused = false ∧
         (s.port 1).notice.queue ≠ [] ∧ ∀ i, (s.port 1).notice.subs.get i = none) := by
  (repeat' apply And.intro) <;> decide +kernel

/-! ### Witnesses: what holds of every step -/

theorem test_meets_OnlyClaimsChangeTheImage : ∃ t, exec (.ping 0 1) State.reset = .next t := ⟨_, rfl⟩

theorem test_meets_MasterReachesOnlyItsPort :
    frameOf (.ping 0 1) = some (0, .req, [1, 11]) ∧ ∃ t, exec (.ping 0 1) State.reset = .next t :=
  ⟨by decide +kernel, _, rfl⟩

theorem test_meets_HeldWordIsNotWritten :
    (∃ t, exec (.commit 0) { committing .write .wrd 6 1 with holds := holdsOf 1 5 2 } = .next t) ∧
      ∀ h ∈ holdsOf 1 5 2, h.owner ≠ 0 ∧ h.area = Region.wrd.area ∧ (h.first ≤ 6 → 6 ≤ h.last → h.id = 6) :=
  ⟨⟨_, rfl⟩, by decide +kernel⟩

theorem test_meets_StepKeepsImageSound : ImageSound swapping := by decide +kernel

theorem test_meets_StepKeepsHoldsSound : HoldsSound (withHolds (holdsOf 0 1 8 ++ holdsOf 1 9 8)) := by decide +kernel

theorem test_meets_StepKeepsFramesSound :
    FramesSound (transmitting State.reset busyFrame (List.replicate 4 busyFrame) none) := by decide +kernel

theorem test_meets_StepKeepsNoticesSound : NoticesSound (notifying [changeEntry 1, changeEntry 2]) := by
  decide +kernel

set_option synthInstance.maxSize 1000 in
theorem test_meets_StepKeepsSessionsSound :
    SessionsSound (committing .write .wrd 0 33) ∧ SessionsSound (pendingBank (.copy 0)) ∧
      SessionsSound (sending readTransfer) ∧ SessionsSound (receiving (transferOf .write)) ∧
      SessionsSound (port0 fun ps =>
        { ps with session := .receiving, transfer := some { transferOf .write with closing := true } }) :=
  ⟨by decide +kernel, by decide +kernel, by decide +kernel, by decide +kernel, by decide +kernel⟩

theorem test_meets_StepKeepsInputsSound : InputsSound (measuringLine .none 4) := by decide +kernel

theorem test_meets_StepKeepsOutputsSound : OutputsSound (armedGroup 0) := by decide +kernel

end Sys2Proof.Tests
end

section
/-! PROOFS. A port's session, its claims and its timers (R7, R77, R78, R91, R97, R101, R103, R107, R109): what each
operation on a port keeps of them, then each command, then a step. -/

namespace Sys2Proof.Machine

/-! ### A port in step with its claims -/

/-- What the session record, the pending bank request, the buffer, the timers and the claims of a port are in each session
state (R7, R77, R91, R97, R103, R107). -/
def PortState.inStep (ps : PortState) (p : Port) (cs : List Claim) : Prop :=
  match ps.session with
  | .idle =>
    ps.transfer = none ∧ ps.buffer = [] ∧ ps.tSeg = none ∧ ps.tAck = none ∧
      (ps.bankRequest = none ∧ cs = [] ∨ ps.bankRequest ≠ none ∧ (cs = [.swap p] ∨ cs = [.copy p]))
  | .notifying =>
    ps.transfer = none ∧ ps.buffer = [] ∧ ps.tSeg = none ∧ ps.tAck = none ∧ ps.bankRequest = none ∧ cs = []
  | .receiving =>
    ps.bankRequest = none ∧ ps.tAck = none ∧ cs = [] ∧
      ∃ t, ps.transfer = some t ∧ (t.closing = true → ps.tSeg = none)
  | .sending =>
    ps.bankRequest = none ∧ ps.tSeg = none ∧
      ∃ t, ps.transfer = some t ∧
        (t.snapGen = none ∧ t.closing = false ∧ ps.tAck = none ∧
            cs = [.snapshot p t.area t.edit t.first t.count] ∨
          t.snapGen ≠ none ∧ (t.closing = true → ps.tAck = none) ∧ cs = [])
  | .committing =>
    ps.bankRequest = none ∧ ps.tSeg = none ∧ ps.tAck = none ∧
      if ps.transfer.any Transfer.closing then cs = [] else ∃ op r first count, cs = [.commit p op r first count]

theorem Claim.eq_of_isSwapOf {p : Port} {c : Claim} (h : c.isSwapOf p = true) : c = .swap p := by
  cases c with
  | swap q => simpa [Claim.isSwapOf] using h
  | _ => cases h

theorem Claim.eq_of_isCopyOf {p : Port} {c : Claim} (h : c.isCopyOf p = true) : c = .copy p := by
  cases c with
  | copy q => simpa [Claim.isCopyOf] using h
  | _ => cases h

theorem Claim.port_of_isSnapshotOf {p : Port} {c : Claim} (h : c.isSnapshotOf p = true) : c.port = some p := by
  cases c with
  | snapshot q => simpa [Claim.isSnapshotOf, Claim.port] using h
  | _ => cases h

/-- The claim that a port waits for in COMMITTING, as the part's claims about it are worded. -/
theorem isCommitOf_singleton (p : Port) (cs : List Claim) :
    (cs.length = 1 ∧ cs.all (Claim.isCommitOf p) = true) ↔ ∃ op r first count, cs = [.commit p op r first count] := by
  constructor
  · rintro ⟨hl, ha⟩
    obtain ⟨c, rfl⟩ := List.length_eq_one_iff.mp hl
    simp only [List.all_cons, List.all_nil, Bool.and_true] at ha
    cases c with
    | commit q op r first count =>
      have hq : q = p := by simpa [Claim.isCommitOf] using ha
      exact ⟨op, r, first, count, by rw [hq]⟩
    | _ => cases ha
  · rintro ⟨op, r, first, count, rfl⟩
    simp [Claim.isCommitOf]

/-- The part of SessionsSound that speaks of one port. -/
theorem PortState.inStep_iff (ps : PortState) (p : Port) (cs : List Claim) :
    ps.inStep p cs ↔
      ClaimsFit ps p cs ∧
      (ps.session = .idle ∨ ps.session = .notifying → ps.transfer = none ∧ ps.buffer = []) ∧
      (ps.session = .receiving → ps.transfer.isSome = true) ∧
      (∀ t ∈ ps.transfer, t.closing = true → t.snapGen = none → ps.session ≠ .sending) ∧
      (∀ t ∈ ps.transfer, t.closing = true → ps.tSeg = none ∧ ps.tAck = none) ∧
      (ps.tSeg.isSome = true → ps.session = .receiving) ∧
      (ps.tAck.isSome = true → ps.session = .sending ∧ (ps.transfer.any fun t => t.snapGen.isSome) = true) := by
  simp only [PortState.inStep, ClaimsFit, isCommitOf_singleton, Option.isSome_iff_ne_none]
  cases hs : ps.session with
  | idle => grind
  | notifying => grind
  | receiving => cases ht : ps.transfer <;> grind
  | sending =>
    cases ht : ps.transfer with
    | none => grind
    | some t => cases hg : t.snapGen <;> grind
  | committing => grind

/-- The invariant, port by port. -/
theorem sessionsSound_iff (s : State) :
    SessionsSound s ↔ (∀ batch ∈ s.claims, batch ≠ []) ∧ ∀ p, (s.port p).inStep p (s.claimsOf p) := by
  simp only [PortState.inStep_iff, SessionsSound]

/-- A port has at most one claim. -/
theorem PortState.length_of_inStep {ps : PortState} {p : Port} {cs : List Claim} (h : ps.inStep p cs) :
    cs.length ≤ 1 := by
  unfold PortState.inStep at h
  cases hs : ps.session with
  | idle => grind
  | notifying => grind
  | receiving => grind
  | sending => grind
  | committing => grind

/-! ### The transmitter and the end of a transfer -/

theorem PortState.inStep_pump {ps : PortState} {p : Port} {cs : List Claim} (h : ps.inStep p cs) :
    ps.pump.inStep p cs := by
  rw [PortState.pump_eq]; exact h

/-- T_ack starts in SENDING only, with the snapshot taken and no FIN formed. -/
theorem PortState.inStep_startTAck {ps : PortState} {p : Port} {cs : List Claim} (seq : Nat) (h : ps.inStep p cs) :
    (ps.startTAck seq).inStep p cs := by
  unfold PortState.startTAck
  cases ht : ps.transfer with
  | none => exact h
  | some t =>
    simp only
    split
    · next c =>
      obtain ⟨hs, hc, hg, -⟩ := c
      simp only [PortState.inStep, hs, ht] at h ⊢
      grind
    · exact h

/-- A transfer that closes has no claim waiting: the port is at rest (R103). -/
theorem PortState.inStep_close {ps : PortState} {p : Port} {cs : List Claim} (reply : List Byte)
    (h : ps.inStep p cs) : (ps.close reply).inStep p cs := by
  unfold PortState.close
  cases ht : ps.transfer with
  | none => exact h
  | some t =>
    simp only
    split
    · next hc =>
      unfold PortState.inStep at h
      cases hs : ps.session with
      | idle => simp [hs, ht] at h
      | notifying => simp [hs, ht] at h
      | receiving => simp only [PortState.inStep]; grind
      | sending => simp only [PortState.inStep]; grind
      | committing => simp only [hs, ht, Option.any_some, hc] at h; simp only [PortState.inStep]; grind
    · exact h

theorem PortState.inStep_reportSession {ps : PortState} {p : Port} {cs : List Claim} (f : TxFrame)
    (h : ps.inStep p cs) : (ps.reportSession f).inStep p cs := by
  unfold PortState.reportSession
  cases f.origin with
  | reply => exact h
  | segment seq => exact PortState.inStep_startTAck seq h
  | closing => exact PortState.inStep_close _ h
  | notice => exact h

/-- A formed frame may push out an older one, whose report is all that can change the session. -/
theorem PortState.inStep_form {ps : PortState} {p : Port} {cs : List Claim} (f : TxFrame) (h : ps.inStep p cs) :
    (ps.form f).inStep p cs := by
  unfold PortState.form
  split
  · split
    · exact PortState.inStep_pump (PortState.inStep_reportSession _ h)
    · exact PortState.inStep_pump h
  · exact PortState.inStep_pump h

theorem PortState.inStep_respond {ps : PortState} {p : Port} {cs : List Claim} (request : List Byte)
    (code : ReplyCode) (detail : List Byte) (final : Bool) (h : ps.inStep p cs) :
    (ps.respond request code detail final).inStep p cs := by
  cases final <;> exact PortState.inStep_form _ h

/-- A FIN stops both timers; what it leaves open is a transfer that closes and has no claim. -/
theorem PortState.inStep_finish {ps : PortState} {p : Port} {t : Transfer} (outcome : FinOutcome) (gen : Gen)
    (detail : Byte) (hb : ps.bankRequest = none)
    (hs : ps.session = .receiving ∨ ps.session = .committing ∨ ps.session = .sending ∧ t.snapGen ≠ none) :
    (ps.finish t outcome gen detail).inStep p [] := by
  apply PortState.inStep_form
  rcases hs with hs | hs | ⟨hs, hg⟩
  · simp [PortState.inStep, hs, hb]
  · simp [PortState.inStep, hs, hb]
  · simp [PortState.inStep, hs, hb, hg]

/-! ### Notices -/

/-- Delivery sends at a free port only, which has no claim and no transfer (R78, R121). -/
theorem PortState.inStep_deliver {ps : PortState} {p : Port} {cs : List Claim} (enabled : Bool)
    (h : ps.inStep p cs) : (ps.deliver enabled).inStep p cs := by
  unfold PortState.deliver
  split
  · next c =>
    simp only [PortState.readyToSend, PortState.free, Bool.and_eq_true, decide_eq_true_eq,
      Option.isNone_iff_eq_none] at c
    obtain ⟨-, ⟨⟨⟨hs, hb⟩, -⟩, -⟩, -⟩ := c
    have waiting : ∀ tx notice, { ps with session := .notifying, tx := tx, notice := notice }.inStep p cs := by
      simp only [PortState.inStep, hs, hb] at h ⊢
      grind
    unfold PortState.send PortState.placeNtc
    split
    · exact h
    · split
      · exact waiting _ _
      · exact waiting _ _
  · exact h

theorem PortState.inStep_leaveNotifying {ps : PortState} {p : Port} {cs : List Claim} (h : ps.inStep p cs) :
    ps.leaveNotifying.inStep p cs := by
  unfold PortState.leaveNotifying
  split
  · next hs =>
    simp only [PortState.inStep, hs] at h ⊢
    grind
  · exact h

theorem PortState.inStep_notify {ps : PortState} {p : Port} {cs : List Claim} (enabled : Bool)
    (items : List Notice) (h : ps.inStep p cs) : (ps.notify enabled items).inStep p cs := by
  unfold PortState.notify
  split
  · exact PortState.inStep_deliver enabled h
  · exact h

theorem PortState.inStep_takeNta {ps : PortState} {p : Port} {cs : List Claim} (payload : List Byte)
    (h : ps.inStep p cs) : (ps.takeNta payload).inStep p cs := by
  unfold PortState.takeNta
  split
  · split
    · split
      · exact PortState.inStep_leaveNotifying (ps := (ps.modNotice _).takeBack) h
      · exact h
    · exact h
  · exact h

/-- The outstanding notice goes again only in NOTIFYING, which is kept. -/
theorem PortState.inStep_noticeExpiry {ps : PortState} {p : Port} {cs : List Claim} (e : Notice) (limit : Nat)
    (enabled : Bool) (hs : ps.session = .notifying) (h : ps.inStep p cs) :
    (ps.noticeExpiry e limit enabled).inStep p cs := by
  unfold PortState.noticeExpiry
  dsimp only
  split
  · split
    · simpa only [PortState.inStep, hs, PortState.placeNtc, PortState.modNotice] using h
    · exact PortState.inStep_leaveNotifying (ps := ps.modNotice _) h
  · exact PortState.inStep_leaveNotifying (ps := ps.modNotice _) h

theorem PortState.inStep_reportNotice {ps : PortState} {p : Port} {cs : List Claim} (wait : Nat)
    (h : ps.inStep p cs) : (ps.reportNotice wait).inStep p cs := by
  unfold PortState.reportNotice
  split <;> exact h

/-- A performed SWAP at a port's notices keeps its session in step with its claims. -/
theorem PortState.inStep_swapNotices {ps : PortState} {p : Port} {cs : List Claim}
    (falls rises early enabled : Bool) (items : List Notice) (h : ps.inStep p cs) :
    (ps.swapNotices falls rises early enabled items).inStep p cs := by
  have held : ps.holdBack.inStep p cs := by
    unfold PortState.holdBack
    split
    · exact PortState.inStep_leaveNotifying (ps := ps.takeBack) h
    · exact h
  unfold PortState.swapNotices
  dsimp only
  have h1 : (if falls then ps.holdBack else ps).inStep p cs := by split <;> assumption
  generalize (if falls then ps.holdBack else ps) = a at h1
  have h2 : (if (rises && early) = true then a.deliver enabled else a).inStep p cs := by
    split
    · exact PortState.inStep_deliver enabled h1
    · exact h1
  generalize (if (rises && early) = true then a.deliver enabled else a) = b at h2
  have h3 := PortState.inStep_notify enabled items h2
  split
  · exact PortState.inStep_deliver enabled h3
  · exact h3

/-! ### Sessions -/

theorem PortState.inStep_busy {ps : PortState} {p : Port} {cs : List Claim} (request : List Byte)
    (h : ps.inStep p cs) : (ps.busy request).inStep p cs := by
  unfold PortState.busy
  split
  · split
    · exact h
    · exact PortState.inStep_respond _ _ _ _ h
  · exact PortState.inStep_respond _ _ _ _ h

theorem PortState.inStep_subscribe {ps : PortState} {p : Port} {cs : List Claim} (request : List Byte)
    (areaCode flags : Byte) (first count : Nat) (h : ps.inStep p cs) :
    (ps.subscribe request areaCode flags first count).inStep p cs := by
  have refused code detail : (ps.refuse request code detail).inStep p cs := PortState.inStep_respond _ _ _ _ h
  unfold PortState.subscribe
  split
  · exact refused _ _
  · split
    · exact refused _ _
    · split
      · exact refused _ _
      · dsimp only
        split
        · exact refused _ _
        · split
          · exact refused _ _
          · exact PortState.inStep_respond (ps := ps.modNotice _) _ _ _ _ h

theorem PortState.inStep_unsubscribe {ps : PortState} {p : Port} {cs : List Claim} (request : List Byte)
    (subId : Byte) (h : ps.inStep p cs) : (ps.unsubscribe request subId).inStep p cs := by
  have refused code detail : (ps.refuse request code detail).inStep p cs := PortState.inStep_respond _ _ _ _ h
  unfold PortState.unsubscribe
  split
  · exact refused _ _
  · split
    · exact refused _ _
    · exact PortState.inStep_respond (ps := ps.modNotice _) _ _ _ _ h

theorem PortState.inStep_repeatedDat {ps : PortState} {p : Port} {cs : List Claim} (tag seq : Byte)
    (h : ps.inStep p cs) : (ps.repeatedDat tag seq).inStep p cs := by
  unfold PortState.repeatedDat
  split
  · split
    · exact PortState.inStep_form _ h
    · exact h
  · exact h

/-- The segment that a frame answers is the current one of an open read whose snapshot has been taken. -/
theorem PortState.answeredSegment_eq_some {ps : PortState} {payload : List Byte} {t : Transfer}
    (h : ps.answeredSegment payload = some t) :
    ps.session = .sending ∧ ps.transfer = some t ∧ t.closing = false ∧ t.snapGen ≠ none := by
  unfold PortState.answeredSegment at h
  split at h
  · next hs ht =>
    split at h
    · next c =>
      cases h
      exact ⟨hs, ht, c.1, Option.isSome_iff_ne_none.mp c.2.1⟩
    · cases h
  · cases h

/-- Once its snapshot is taken, a read in SENDING has no claim, whatever its segment and T_ack, till it is closing. -/
theorem PortState.inStep_sending {ps : PortState} {p : Port} {cs : List Claim} {t t' : Transfer}
    (h : ps.inStep p cs) (hs : ps.session = .sending) (ht : ps.transfer = some t) (hg : t.snapGen ≠ none)
    (hg' : t'.snapGen = t.snapGen) :
    cs = [] ∧ ps.bankRequest = none ∧ { ps with transfer := some t', tAck := none }.inStep p cs := by
  simp only [PortState.inStep, hs, ht] at h ⊢
  grind

theorem PortState.inStep_takeAck {ps : PortState} {p : Port} {cs : List Claim} (payload : List Byte)
    (h : ps.inStep p cs) : (ps.takeAck payload).inStep p cs := by
  unfold PortState.takeAck
  cases ha : ps.answeredSegment payload with
  | none => exact h
  | some t =>
    obtain ⟨hs, ht, hc, hg⟩ := PortState.answeredSegment_eq_some ha
    dsimp only
    split
    · exact PortState.inStep_form _
        (PortState.inStep_sending (t' := { t with retry := 0, seq := t.seq + 1 }) h hs ht hg rfl).2.2
    · obtain ⟨rfl, hb, -⟩ := PortState.inStep_sending (t' := t) h hs ht hg rfl
      exact PortState.inStep_finish _ _ _ hb (.inr (.inr ⟨hs, hg⟩))

theorem PortState.inStep_retrySegment {ps : PortState} {p : Port} {cs : List Claim} {t : Transfer}
    (h : ps.inStep p cs) (hs : ps.session = .sending) (ht : ps.transfer = some t) (hg : t.snapGen ≠ none) :
    (ps.retrySegment t).inStep p cs := by
  obtain ⟨rfl, hb, sent⟩ := PortState.inStep_sending (t' := { t with retry := t.retry + 1 }) h hs ht hg rfl
  unfold PortState.retrySegment
  dsimp only
  split
  · exact PortState.inStep_form _ sent
  · exact PortState.inStep_finish _ _ _ hb (.inr (.inr ⟨hs, hg⟩))

theorem PortState.inStep_takeNak {ps : PortState} {p : Port} {cs : List Claim} (payload : List Byte)
    (h : ps.inStep p cs) : (ps.takeNak payload).inStep p cs := by
  unfold PortState.takeNak
  cases ha : ps.answeredSegment payload with
  | none => exact h
  | some t =>
    obtain ⟨hs, ht, -, hg⟩ := PortState.answeredSegment_eq_some ha
    exact PortState.inStep_retrySegment h hs ht hg

/-- A transfer in RECEIVING has no claim, whatever its segment, retries and T_seg while no FIN is formed. -/
theorem PortState.inStep_receiving {ps : PortState} {p : Port} {cs : List Claim} (h : ps.inStep p cs)
    (hs : ps.session = .receiving) :
    cs = [] ∧ ps.bankRequest = none ∧ ps.tAck = none ∧
      ∀ t' buffer, t'.closing = false → { ps with transfer := some t', buffer := buffer }.inStep p cs := by
  simp only [PortState.inStep, hs] at h ⊢
  grind

theorem PortState.inStep_segmentFault {ps : PortState} {p : Port} {cs : List Claim} {t : Transfer}
    (h : ps.inStep p cs) (hs : ps.session = .receiving) (hc : t.closing = false) :
    (ps.segmentFault t).inStep p cs := by
  obtain ⟨rfl, hb, -, opened⟩ := PortState.inStep_receiving h hs
  unfold PortState.segmentFault
  dsimp only
  split
  · exact PortState.inStep_form _ (opened { t with retry := t.retry + 1 } ps.buffer hc)
  · exact PortState.inStep_finish _ _ _ hb (.inl hs)

theorem PortState.inStep_takeAbt {ps : PortState} {p : Port} {cs : List Claim} (payload : List Byte)
    (h : ps.inStep p cs) : (ps.takeAbt payload).inStep p cs := by
  unfold PortState.takeAbt
  split
  · next t ht =>
    split
    · next c =>
      obtain ⟨-, -, hs | ⟨hs, hg⟩⟩ := c
      · obtain ⟨rfl, hb, -⟩ := PortState.inStep_receiving h hs
        exact PortState.inStep_finish _ _ _ hb (.inl hs)
      · have hg := Option.isSome_iff_ne_none.mp hg
        obtain ⟨rfl, hb, -⟩ := PortState.inStep_sending (t' := t) h hs ht hg rfl
        exact PortState.inStep_finish _ _ _ hb (.inr (.inr ⟨hs, hg⟩))
    · exact h
  · exact h

/-! ### Waits that run out -/

theorem PortState.inStep_segExpiry {ps : PortState} {p : Port} {cs : List Claim} {t : Transfer}
    (h : ps.inStep p cs) (hd : ps.segDue = some t) :
    ((ps.count Counters.timeout).finish t .timeout 0 0).inStep p cs := by
  unfold PortState.segDue at hd
  split at hd
  · next hs ht hw =>
    obtain ⟨rfl, hb, -⟩ := PortState.inStep_receiving h hs
    exact PortState.inStep_finish _ _ _ hb (.inl hs)
  · cases hd

theorem PortState.inStep_ackExpiry {ps : PortState} {p : Port} {cs : List Claim} {t : Transfer}
    (h : ps.inStep p cs) (hd : ps.ackDue = some t) :
    ((ps.count Counters.timeout).retrySegment t).inStep p cs := by
  unfold PortState.ackDue at hd
  split at hd
  · next hs ht hw =>
    cases hd
    have hg : t.snapGen ≠ none := by
      simp only [PortState.inStep, hs, ht, hw] at h
      grind
    exact PortState.inStep_retrySegment (ps := ps.count Counters.timeout) h hs ht hg
  · cases hd

theorem PortState.session_of_noticeDue {ps : PortState} {e : Notice} (h : ps.noticeDue = some e) :
    ps.session = .notifying := by
  unfold PortState.noticeDue at h
  split at h
  · next c => exact c.1
  · cases h

theorem PortState.inStep_tick {ps : PortState} {p : Port} {cs : List Claim} (h : ps.inStep p cs) :
    ps.tick.inStep p cs := by
  simp only [PortState.inStep, PortState.tick, countDown, Option.map_eq_none_iff]
  exact h

/-! ### Lines, breaks and RESET_N -/

theorem PortState.inStep_charError {ps : PortState} {p : Port} {cs : List Claim} (h : ps.inStep p cs) :
    ps.charError.inStep p cs := by
  unfold PortState.charError
  dsimp only
  split <;> exact h

theorem PortState.inStep_frameSent {ps : PortState} {p : Port} {cs : List Claim} (wait : Nat)
    (h : ps.inStep p cs) : (ps.frameSent wait).inStep p cs := by
  unfold PortState.frameSent PortState.reportSent
  split
  · apply PortState.inStep_pump
    split
    · exact PortState.inStep_reportNotice _ h
    · exact PortState.inStep_reportSession _ h
  · exact h

/-- A port reset leaves a port the claims that are still taken for it: all but a snapshot's (R19, R109). -/
theorem PortState.inStep_portReset {ps : PortState} {p : Port} {cs : List Claim} (h : ps.inStep p cs) :
    ps.portReset.inStep p (cs.filter fun c => !c.isSnapshotOf p) := by
  unfold PortState.portReset PortState.resetSession
  unfold PortState.inStep at h ⊢
  cases hs : ps.session with
  | idle =>
    simp only [hs] at h
    obtain ⟨-, hb, -, -, ⟨hn, rfl⟩ | ⟨hn, rfl | rfl⟩⟩ := h <;> simp [hn, Claim.isSnapshotOf]
  | notifying => simp only [hs] at h; simp [h]
  | receiving => simp only [hs] at h; simp [h]
  | sending =>
    simp only [hs] at h
    obtain ⟨hb, -, t, -, ⟨-, -, -, rfl⟩ | ⟨-, -, rfl⟩⟩ := h <;> simp [hb, Claim.isSnapshotOf]
  | committing =>
    simp only [hs] at h
    obtain ⟨hb, -, -, h⟩ := h
    split at h
    · next hc => simp [hc, h, hb]
    · next hc =>
      obtain ⟨op, r, first, count, rfl⟩ := h
      simp [hc, hb, Claim.isSnapshotOf]

theorem PortState.inStep_stopped (ps : PortState) (p : Port) : ps.stopped.inStep p [] := by
  simp [PortState.inStep, PortState.stopped]

theorem PortState.inStep_reset (line : LineLevel) (p : Port) : (PortState.reset line).inStep p [] := by
  simp [PortState.inStep, PortState.reset]

/-! ### The part in step with the waiting claims -/

/-- The part is in step with its waiting claims and with `hand`, claims that are on their way: made and not yet handed over,
or taken and not yet answered. -/
def State.inStepWith (s : State) (hand : List Claim) : Prop :=
  (∀ batch ∈ s.claims, batch ≠ []) ∧
    ∀ p, (s.port p).inStep p ((hand.filter fun c => c.port = some p) ++ s.claimsOf p)

theorem State.inStepWith_nil {s : State} : s.inStepWith [] ↔ SessionsSound s := (sessionsSound_iff s).symm

/-- A change that leaves every port in step with the claims it had, and the claims of the ports as they are. -/
theorem State.inStepWith_of_ports {s t : State} {hand : List Claim} (h : s.inStepWith hand)
    (hc : t.claims = s.claims) (hp : ∀ p cs, (s.port p).inStep p cs → (t.port p).inStep p cs) :
    t.inStepWith hand := by
  obtain ⟨hne, hps⟩ := h
  refine ⟨by rwa [hc], fun p => ?_⟩
  have : t.claimsOf p = s.claimsOf p := by simp [State.claimsOf, hc]
  rw [this]
  exact hp p _ (hps p)

/-- A change of one port. -/
theorem State.inStepWith_modPort {s : State} {hand : List Claim} {p : Port} {f : PortState → PortState}
    (h : s.inStepWith hand) (hf : ∀ cs, (s.port p).inStep p cs → (f (s.port p)).inStep p cs) :
    (s.modPort p f).inStepWith hand := by
  refine State.inStepWith_of_ports h rfl fun q cs hq => ?_
  by_cases hqp : q = p
  · subst hqp
    rw [port_modPort_same]
    exact hf cs hq
  · rwa [port_modPort_other _ _ _ _ hqp]

theorem State.inStepWith_setPort {s : State} {hand : List Claim} {p : Port} {ps : PortState}
    (h : s.inStepWith hand) (hf : ∀ cs, (s.port p).inStep p cs → ps.inStep p cs) :
    (s.setPort p ps).inStepWith hand := State.inStepWith_modPort (f := fun _ => ps) h hf

theorem State.inStepWith_mapPorts {s : State} {hand : List Claim} {f : Port → PortState → PortState}
    (h : s.inStepWith hand) (hf : ∀ p cs, (s.port p).inStep p cs → (f p (s.port p)).inStep p cs) :
    (s.mapPorts f).inStepWith hand :=
  State.inStepWith_of_ports h rfl fun p cs hp => by rw [port_mapPorts]; exact hf p cs hp

theorem State.inStepWith_judge {s : State} {hand : List Claim} (p : Port) (h : s.inStepWith hand) :
    (s.judge p).inStepWith hand :=
  State.inStepWith_modPort h fun _ => PortState.inStep_deliver _

theorem State.inStepWith_report {s : State} {hand : List Claim} (r : Report) (h : s.inStepWith hand) :
    (s.report r).inStepWith hand :=
  State.inStepWith_mapPorts h fun _ _ => PortState.inStep_notify _ _

theorem State.inStepWith_reportItem {s : State} {hand : List Claim} (q : Port) (item : Notice)
    (h : s.inStepWith hand) : (s.reportItem q item).inStepWith hand :=
  State.inStepWith_modPort h fun _ => PortState.inStep_notify _ _

/-! ### Claims handed over and taken -/

theorem claimsOf_handOver (s : State) (cs : List Claim) (p : Port) :
    (s.handOver cs).claimsOf p = s.claimsOf p ++ cs.filter fun c => c.port = some p := by
  unfold State.claimsOf
  rw [claims_handOver]
  split
  · next h => simp [List.isEmpty_iff.mp h]
  · simp

theorem handOver_ne_nil {s : State} (cs : List Claim) (h : ∀ batch ∈ s.claims, batch ≠ []) :
    ∀ batch ∈ (s.handOver cs).claims, batch ≠ [] := by
  rw [claims_handOver]
  split
  · exact h
  · next hne =>
    intro batch hb
    rcases List.mem_append.mp hb with hb | hb
    · exact h batch hb
    · rw [List.mem_singleton.mp hb]
      simpa using hne

/-- Claims of lines are no port's. -/
theorem State.inStepWith_handOver_lines {s : State} {hand cs : List Claim} (h : s.inStepWith hand)
    (hl : ∀ c ∈ cs, c.port = none) : (s.handOver cs).inStepWith hand := by
  obtain ⟨hne, hps⟩ := h
  refine ⟨handOver_ne_nil cs hne, fun p => ?_⟩
  have : (cs.filter fun c => c.port = some p) = [] := List.filter_eq_nil_iff.mpr fun c hc => by simp [hl c hc]
  rw [claimsOf_handOver, this, List.append_nil, port_handOver]
  exact hps p

/-- The claim in hand is handed over: it is its port's only claim, so it waits where it stood. -/
theorem State.inStepWith_handOver {s : State} {c : Claim} (h : s.inStepWith [c]) : (s.handOver [c]).inStepWith [] := by
  obtain ⟨hne, hps⟩ := h
  refine ⟨handOver_ne_nil [c] hne, fun p => ?_⟩
  have hp := hps p
  rw [claimsOf_handOver, port_handOver, List.filter_nil, List.nil_append]
  by_cases hc : c.port = some p
  · have := PortState.length_of_inStep hp
    simp only [hc, decide_true, List.filter_cons_of_pos, List.filter_nil, List.length_append, List.length_singleton] at this
    have hnone : s.claimsOf p = [] := List.length_eq_zero_iff.mp (by omega)
    simpa [hc, hnone] using hp
  · simpa [hc] using hp

/-- The claims left, flattened. -/
theorem flatten_claimsLeft (before after : List Claim) (later : List (List Claim)) :
    (claimsLeft before after later).flatten = before ++ after ++ later.flatten := by
  unfold claimsLeft
  split
  · next h => simp [List.isEmpty_iff.mp h]
  · simp

theorem claimsLeft_ne_nil {before after : List Claim} {later : List (List Claim)} (h : ∀ batch ∈ later, batch ≠ []) :
    ∀ batch ∈ claimsLeft before after later, batch ≠ [] := by
  unfold claimsLeft
  split
  · exact h
  · next hne =>
    intro batch hb
    rcases List.mem_cons.mp hb with rfl | hb
    · simpa using hne
    · exact h batch hb

/-- The arbiter takes a claim, which is in its hand until it is answered. -/
theorem State.inStepWith_takeClaim {s : State} {f : Claim → Bool} {c : Claim} {rest : List (List Claim)}
    (h : s.inStepWith []) (ht : takeClaim f s.claims = some (c, rest)) : { s with claims := rest }.inStepWith [c] := by
  obtain ⟨hne, hps⟩ := h
  obtain ⟨-, before, after, later, hcs, -, rfl⟩ := takeClaim_some ht
  refine ⟨claimsLeft_ne_nil fun batch hb => hne batch (by simp [hcs, hb]), fun p => ?_⟩
  have hp := hps p
  have all : s.claimsOf p = (before ++ c :: after ++ later.flatten).filter fun c => c.port = some p := by
    simp [State.claimsOf, hcs]
  have left : ({ s with claims := claimsLeft before after later } : State).claimsOf p =
      (before ++ after ++ later.flatten).filter fun c => c.port = some p := by
    simp only [State.claimsOf, flatten_claimsLeft]
  change (s.port p).inStep p _
  rw [left]
  rw [all] at hp
  by_cases hc : c.port = some p
  · have := PortState.length_of_inStep hp
    simp only [List.filter_append, hc, decide_true, List.filter_cons_of_pos, List.filter_nil, List.nil_append,
      List.length_append, List.length_cons] at this hp ⊢
    have hb : before.filter (fun c => c.port = some p) = [] := List.length_eq_zero_iff.mp (by omega)
    simpa [hb] using hp
  · simpa [hc] using hp

/-- A port that makes a claim has none waiting, and is in step with the one it makes. -/
theorem State.inStepWith_claim {s : State} {p : Port} {c : Claim} {f : PortState → PortState} (h : s.inStepWith [])
    (hc : c.port = some p)
    (hf : ∀ cs, (s.port p).inStep p cs → cs = [] ∧ (f (s.port p)).inStep p [c]) : (s.modPort p f).inStepWith [c] := by
  obtain ⟨hne, hps⟩ := h
  refine ⟨hne, fun q => ?_⟩
  have same : (s.modPort p f).claimsOf q = s.claimsOf q := rfl
  rw [same]
  by_cases hq : q = p
  · subst hq
    obtain ⟨hnone, made⟩ := hf _ (hps q)
    simp only [List.filter_nil, List.nil_append] at hnone
    simpa [hc, hnone] using made
  · have : ¬c.port = some q := by rw [hc]; simpa using Ne.symm hq
    rw [port_modPort_other _ _ _ _ hq]
    simpa [this] using hps q

/-- The port of a claim in hand is in step with it alone. -/
theorem State.inStep_of_hand {s : State} {p : Port} {c : Claim} (h : s.inStepWith [c]) (hc : c.port = some p) :
    (s.port p).inStep p [c] ∧ s.claimsOf p = [] := by
  have hp := h.2 p
  have := PortState.length_of_inStep hp
  simp only [hc, decide_true, List.filter_cons_of_pos, List.filter_nil, List.length_append, List.length_singleton] at this hp
  have hnone : s.claimsOf p = [] := List.length_eq_zero_iff.mp (by omega)
  rw [hnone] at hp
  exact ⟨hp, hnone⟩

/-- A claim in hand is answered: its port comes to be in step with no claim. -/
theorem State.inStepWith_answer {s : State} {p : Port} {c : Claim} {ps : PortState} (h : s.inStepWith [c])
    (hc : c.port = some p) (hf : ps.inStep p []) : (s.setPort p ps).inStepWith [] := by
  have hnone := (State.inStep_of_hand h hc).2
  obtain ⟨hne, hps⟩ := h
  refine ⟨hne, fun q => ?_⟩
  have same : (s.setPort p ps).claimsOf q = s.claimsOf q := rfl
  rw [same]
  by_cases hq : q = p
  · subst hq
    simpa [hnone] using hf
  · have : ¬c.port = some q := by rw [hc]; simpa using Ne.symm hq
    rw [port_setPort_other _ _ _ _ hq]
    simpa [this] using hps q

/-- A change of the part outside its ports and claims. -/
theorem State.inStepWith_frame {s t : State} {hand : List Claim} (h : s.inStepWith hand)
    (hc : t.claims = s.claims) (hp : t.ports = s.ports) : t.inStepWith hand :=
  State.inStepWith_of_ports h hc fun p cs hs => by simpa only [State.port, hp] using hs

/-! ### What a port waits for, read off its claim -/

theorem PortState.of_inStep_commit {ps : PortState} {p : Port} {op : WriteOp} {r : Region} {first count : Nat}
    (h : ps.inStep p [.commit p op r first count]) :
    ps.session = .committing ∧ ps.bankRequest = none ∧ ps.tSeg = none ∧ ps.tAck = none := by
  unfold PortState.inStep at h
  cases hs : ps.session with
  | idle => simp [hs] at h
  | notifying => simp [hs] at h
  | receiving => simp [hs] at h
  | sending => simp [hs] at h
  | committing => simp only [hs] at h; exact ⟨rfl, h.1, h.2.1, h.2.2.1⟩

theorem PortState.of_inStep_snapshot {ps : PortState} {p : Port} {area : Area} {edit : Bool} {first count : Nat}
    (h : ps.inStep p [.snapshot p area edit first count]) :
    ps.session = .sending ∧ ps.bankRequest = none ∧ ps.tSeg = none ∧ ps.tAck = none ∧
      ∃ t, ps.transfer = some t ∧ t.closing = false := by
  unfold PortState.inStep at h
  cases hs : ps.session with
  | idle => simp [hs] at h
  | notifying => simp [hs] at h
  | receiving => simp [hs] at h
  | sending => simp only [hs] at h; grind
  | committing => simp only [hs] at h; grind

theorem PortState.of_inStep_bank {ps : PortState} {p : Port} {c : Claim} (hc : c = .swap p ∨ c = .copy p)
    (h : ps.inStep p [c]) :
    ps.bankRequest ≠ none ∧ { ps with bankRequest := none }.inStep p [] := by
  unfold PortState.inStep at h ⊢
  cases hs : ps.session with
  | idle => simp only [hs] at h ⊢; grind
  | notifying => simp [hs] at h
  | receiving => simp [hs] at h
  | sending => simp only [hs] at h; grind
  | committing => simp only [hs] at h; grind

/-! ### Requests -/

/-- A port in IDLE that is not pending. -/
theorem PortState.of_inStep_idle {ps : PortState} {p : Port} {cs : List Claim} (h : ps.inStep p cs)
    (hs : ps.session = .idle) (hb : ps.bankRequest = none) :
    cs = [] ∧ ps.transfer = none ∧ ps.buffer = [] ∧ ps.tSeg = none ∧ ps.tAck = none := by
  simp only [PortState.inStep, hs, hb] at h
  grind

theorem State.inStepWith_performTransfer {s : State} {p : Port} (request : List Byte) (op : TransferOp)
    (areaCode flags : Byte) (first count : Nat) (h : s.inStepWith []) (hs : (s.port p).session = .idle)
    (hb : (s.port p).bankRequest = none) :
    (s.performTransfer p request op areaCode flags first count).inStepWith [] := by
  unfold State.performTransfer
  split
  · exact State.inStepWith_modPort h fun _ => PortState.inStep_respond _ _ _ _
  · split
    · exact State.inStepWith_modPort h fun _ => PortState.inStep_respond _ _ _ _
    · dsimp only
      split
      · refine State.inStepWith_handOver (State.inStepWith_claim (p := p) h rfl fun cs hp => ?_)
        obtain ⟨rfl, -, -, hseg, hack⟩ := PortState.of_inStep_idle hp hs hb
        exact ⟨rfl, by simp [PortState.inStep, newTransfer, hb, hseg, hack]⟩
      · refine State.inStepWith_modPort h fun cs hp => PortState.inStep_respond _ _ _ _ ?_
        obtain ⟨rfl, -, -, hseg, hack⟩ := PortState.of_inStep_idle hp hs hb
        simp [PortState.inStep, newTransfer, hb, hack]

theorem State.inStepWith_performBankOp {s : State} {p : Port} (request : List Byte) {c : Claim}
    (hc : c = .swap p ∨ c = .copy p) (h : s.inStepWith []) (hs : (s.port p).session = .idle)
    (hb : (s.port p).bankRequest = none) : (s.performBankOp p request c).inStepWith [] := by
  have hport : c.port = some p := by rcases hc with rfl | rfl <;> rfl
  refine State.inStepWith_handOver (State.inStepWith_claim (p := p) h hport fun cs hp => ?_)
  obtain ⟨rfl, ht, hbuf, hseg, hack⟩ := PortState.of_inStep_idle hp hs hb
  exact ⟨rfl, by simpa [PortState.inStep, hs, ht, hbuf, hseg, hack] using hc⟩

theorem State.inStepWith_performHold {s : State} {p : Port} (request : List Byte) (areaCode : Byte)
    (first count : Nat) (lease : Word) (h : s.inStepWith []) :
    (s.performHold p request areaCode first count lease).inStepWith [] := by
  unfold State.performHold
  split
  · exact State.inStepWith_modPort h fun _ => PortState.inStep_respond _ _ _ _
  · split
    · exact State.inStepWith_modPort h fun _ => PortState.inStep_respond _ _ _ _
    · exact State.inStepWith_modPort (State.inStepWith_frame h (claims_grantHold ..) (ports_grantHold ..))
        fun _ => PortState.inStep_respond _ _ _ _

theorem State.inStepWith_performRelease {s : State} {p : Port} (request : List Byte) (id : Byte)
    (h : s.inStepWith []) : (s.performRelease p request id).inStepWith [] := by
  unfold State.performRelease
  split
  · exact State.inStepWith_modPort h fun _ => PortState.inStep_respond _ _ _ _
  · split
    · exact State.inStepWith_modPort h fun _ => PortState.inStep_respond _ _ _ _
    · exact State.inStepWith_modPort (State.inStepWith_frame (t := s.removeHold id) h rfl rfl)
        fun _ => PortState.inStep_respond _ _ _ _

theorem State.inStepWith_performRenew {s : State} {p : Port} (request : List Byte) (id : Byte) (lease : Word)
    (h : s.inStepWith []) : (s.performRenew p request id lease).inStepWith [] := by
  unfold State.performRenew
  split
  · exact State.inStepWith_modPort h fun _ => PortState.inStep_respond _ _ _ _
  · split
    · exact State.inStepWith_modPort h fun _ => PortState.inStep_respond _ _ _ _
    · split
      · exact State.inStepWith_modPort h fun _ => PortState.inStep_respond _ _ _ _
      · exact State.inStepWith_modPort (State.inStepWith_frame (t := s.renewHold id lease) h rfl rfl)
          fun _ => PortState.inStep_respond _ _ _ _

theorem State.inStepWith_perform {s : State} {p : Port} (request : List Byte) (r : Request) (h : s.inStepWith [])
    (hs : (s.port p).session = .idle) (hb : (s.port p).bankRequest = none) :
    (s.perform p request r).inStepWith [] := by
  cases r with
  | read => exact State.inStepWith_performTransfer _ _ _ _ _ _ h hs hb
  | write => exact State.inStepWith_performTransfer _ _ _ _ _ _ h hs hb
  | mwrite => exact State.inStepWith_performTransfer _ _ _ _ _ _ h hs hb
  | hold => exact State.inStepWith_performHold _ _ _ _ _ h
  | release => exact State.inStepWith_performRelease _ _ h
  | renew => exact State.inStepWith_performRenew _ _ _ h
  | subscribe => exact State.inStepWith_modPort h fun _ => PortState.inStep_subscribe _ _ _ _ _
  | unsubscribe => exact State.inStepWith_modPort h fun _ => PortState.inStep_unsubscribe _ _
  | swap => exact State.inStepWith_performBankOp _ (.inl rfl) h hs hb
  | copy => exact State.inStepWith_performBankOp _ (.inr rfl) h hs hb
  | ping => exact State.inStepWith_modPort h fun _ => PortState.inStep_respond _ _ _ _

theorem State.inStepWith_judgeRequest {s : State} {p : Port} (request : List Byte) (h : s.inStepWith [])
    (hs : (s.port p).session = .idle) (hb : (s.port p).bankRequest = none) :
    (s.judgeRequest p request).inStepWith [] := by
  unfold State.judgeRequest
  split
  · exact State.inStepWith_modPort h fun _ => PortState.inStep_form _
  · split
    · exact State.inStepWith_modPort h fun _ => PortState.inStep_respond _ _ _ _
    · split
      · exact State.inStepWith_modPort h fun _ => PortState.inStep_respond _ _ _ _
      · exact State.inStepWith_perform _ _ h hs hb

theorem State.inStepWith_takeReq {s : State} {p : Port} (request : List Byte) (h : s.inStepWith []) :
    (s.takeReq p request).inStepWith [] := by
  unfold State.takeReq
  split
  · exact h
  · cases hs : (s.port p).session with
    | notifying =>
      have suspended : (s.port p).suspendNotice.session = .idle ∧ (s.port p).suspendNotice.bankRequest = none := by
        have := h.2 p
        simp only [PortState.inStep, hs] at this
        simp [PortState.suspendNotice, PortState.leaveNotifying, PortState.takeBack, PortState.modNotice, hs, this]
      refine State.inStepWith_judgeRequest _ (State.inStepWith_modPort h fun cs hp => ?_) ?_ ?_
      · exact PortState.inStep_leaveNotifying (ps := ((s.port p).modNotice _).takeBack) hp
      · rw [port_modPort_same]; exact suspended.1
      · rw [port_modPort_same]; exact suspended.2
    | idle =>
      dsimp only
      split
      · exact State.inStepWith_modPort h fun _ => PortState.inStep_busy _
      · next hb => exact State.inStepWith_judgeRequest _ h hs (by simpa using hb)
    | receiving => exact State.inStepWith_modPort h fun _ => PortState.inStep_busy _
    | sending => exact State.inStepWith_modPort h fun _ => PortState.inStep_busy _
    | committing => exact State.inStepWith_modPort h fun _ => PortState.inStep_busy _

/-! ### The other frames -/

/-- The last segment is stored: the commit claim is handed over at the change to COMMITTING (R101). -/
theorem State.inStepWith_storeSegment {s : State} {p : Port} {t : Transfer} (data : List Byte)
    (h : s.inStepWith []) (hs : (s.port p).session = .receiving) (hc : t.closing = false) :
    (s.storeSegment p t data).inStepWith [] := by
  have stored seq cs (hp : (s.port p).inStep p cs) :
      { s.port p with
        buffer := (s.port p).buffer ++ wordsOf data
        transfer := some { t with retry := 0, seq := seq } }.inStep p cs :=
    (PortState.inStep_receiving hp hs).2.2.2 { t with retry := 0, seq := seq } _ hc
  unfold State.storeSegment
  dsimp only
  split
  · exact State.inStepWith_modPort h fun cs hp => PortState.inStep_form _ (stored _ cs hp)
  · unfold State.handCommit
    rw [modPort_modPort]
    refine State.inStepWith_handOver (State.inStepWith_claim (p := p) h rfl fun cs hp => ?_)
    obtain ⟨rfl, hb, hack, -⟩ := PortState.inStep_receiving hp hs
    exact ⟨rfl, by simp [PortState.inStep, hb, hack, hc]⟩

theorem State.inStepWith_receiveSegment {s : State} {p : Port} {t : Transfer} (seq : Byte) (data : List Byte)
    (h : s.inStepWith []) (hs : (s.port p).session = .receiving) (ht : (s.port p).transfer = some t)
    (hc : t.closing = false) : (s.receiveSegment p t seq data).inStepWith [] := by
  have timed : (s.modPort p fun ps => { ps with tSeg := some t.wait }).inStepWith [] := by
    refine State.inStepWith_modPort h fun cs hp => ?_
    simp only [PortState.inStep, hs, ht] at hp ⊢
    grind
  have hs' : ((s.modPort p fun ps => { ps with tSeg := some t.wait }).port p).session = .receiving := by
    rw [port_modPort_same]; exact hs
  unfold State.receiveSegment
  dsimp only
  split
  · exact State.inStepWith_storeSegment _ timed hs' hc
  · split
    · exact State.inStepWith_modPort timed fun _ => PortState.inStep_form _
    · exact State.inStepWith_modPort timed fun _ hp => PortState.inStep_segmentFault hp hs' hc

theorem State.inStepWith_takeDat {s : State} {p : Port} (payload : List Byte) (h : s.inStepWith []) :
    (s.takeDat p payload).inStepWith [] := by
  unfold State.takeDat
  split
  · dsimp only
    split
    · exact State.inStepWith_modPort h fun _ => PortState.inStep_repeatedDat _ _
    · exact State.inStepWith_modPort h fun _ => PortState.inStep_repeatedDat _ _
    · next t hs ht =>
      split
      · next c => exact State.inStepWith_receiveSegment _ _ h hs ht c.1
      · exact h
    · exact h
  · exact h

theorem State.inStepWith_arrive {s : State} {p : Port} (kind : MasterKind) (payload : List Byte)
    (h : s.inStepWith []) : (s.arrive p kind payload).inStepWith [] := by
  have cleared : (s.modPort p fun ps => ps.modNotice fun ns => { ns with paused := false }).inStepWith [] :=
    State.inStepWith_modPort h fun _ hp => hp
  refine State.inStepWith_judge p ?_
  cases kind with
  | req => exact State.inStepWith_takeReq _ cleared
  | dat => exact State.inStepWith_takeDat _ cleared
  | ack => exact State.inStepWith_modPort cleared fun _ => PortState.inStep_takeAck _
  | nak => exact State.inStepWith_modPort cleared fun _ => PortState.inStep_takeNak _
  | abt => exact State.inStepWith_modPort cleared fun _ => PortState.inStep_takeAbt _
  | nta => exact State.inStepWith_modPort cleared fun _ => PortState.inStep_takeNta _

/-! ### Claims answered -/

/-- The outcome of a commit at a port whose transfer is open: its FIN is formed (R102). -/
theorem State.commitDone_open {s : State} {p : Port} {t : Transfer} (outcome : FinOutcome) (gen : Gen) (detail : Byte)
    (hs : (s.port p).session = .committing) (ht : (s.port p).transfer = some t) :
    s.commitDone p outcome gen detail = s.setPort p ((s.port p).finish t outcome gen detail) := by
  simp [State.commitDone, hs, ht]

/-- The outcome of a commit at a port that has been reset since: the port is at rest, and delivery judges (R109). -/
theorem State.commitDone_reset {s : State} {p : Port} (outcome : FinOutcome) (gen : Gen) (detail : Byte)
    (hs : (s.port p).session = .committing) (ht : (s.port p).transfer = none) :
    s.commitDone p outcome gen detail =
      (s.setPort p { s.port p with buffer := [], session := .idle }).judge p := by
  simp [State.commitDone, hs, ht]

/-- The outcome of a commit at a port that waits for none, which no run has. -/
theorem State.commitDone_other {s : State} {p : Port} (outcome : FinOutcome) (gen : Gen) (detail : Byte)
    (hs : (s.port p).session ≠ .committing) : s.commitDone p outcome gen detail = s := by
  unfold State.commitDone
  dsimp only
  split
  · next h _ => exact absurd h hs
  · next h _ => exact absurd h hs
  · rfl

/-- The result of a bank operation at the port it is owed to (R83, R84). -/
theorem State.bankDone_owed {s : State} {p : Port} {request : List Byte} (code : ReplyCode) (detail : List Byte)
    (hb : (s.port p).bankRequest = some (.owed request)) :
    s.bankDone p code detail =
      (s.setPort p ({ s.port p with bankRequest := none }.respond request code detail true)).judge p := by
  simp [State.bankDone, hb]

/-- The result of a bank operation at a port that has been reset since (R58). -/
theorem State.bankDone_orphaned {s : State} {p : Port} (code : ReplyCode) (detail : List Byte)
    (hb : (s.port p).bankRequest = some .orphaned) :
    s.bankDone p code detail = (s.setPort p { s.port p with bankRequest := none }).judge p := by
  simp [State.bankDone, hb]

/-- The outcome of a commit goes back to its port, which has no claim left (R102, R109). -/
theorem State.inStepWith_commitDone {s : State} {p : Port} {op : WriteOp} {r : Region} {first count : Nat}
    (outcome : FinOutcome) (gen : Gen) (detail : Byte) (h : s.inStepWith [.commit p op r first count]) :
    (s.commitDone p outcome gen detail).inStepWith [] := by
  obtain ⟨hs, hb, hseg, hack⟩ := PortState.of_inStep_commit (State.inStep_of_hand h rfl).1
  cases ht : (s.port p).transfer with
  | some t =>
    rw [State.commitDone_open _ _ _ hs ht]
    exact State.inStepWith_answer h rfl (PortState.inStep_finish _ _ _ hb (.inr (.inl hs)))
  | none =>
    rw [State.commitDone_reset _ _ _ hs ht]
    refine State.inStepWith_judge p (State.inStepWith_answer h rfl ?_)
    simp [PortState.inStep, ht, hb, hseg, hack]

theorem State.inStepWith_applyCommit {s : State} {hand : List Claim} (p : Port) (op : WriteOp) (r : Region)
    (first count : Nat) (h : s.inStepWith hand) : (s.applyCommit p op r first count).inStepWith hand := by
  refine State.inStepWith_report _ ?_
  split
  · exact State.inStepWith_frame h (by simp [State.outputCommit]) (by simp [State.outputCommit])
  · exact State.inStepWith_frame h rfl rfl

theorem State.inStepWith_takeCommit {s : State} {p : Port} {op : WriteOp} {r : Region} {first count : Nat}
    (h : s.inStepWith [.commit p op r first count]) : (s.takeCommit p op r first count).inStepWith [] := by
  unfold State.takeCommit
  cases commitCheck s.image s.holds p r first count with
  | ok => exact State.inStepWith_commitDone _ _ _ (State.inStepWith_applyCommit _ _ _ _ _ h)
  | held id => exact State.inStepWith_commitDone _ _ _ h
  | stale => exact State.inStepWith_commitDone _ _ _ h

/-- The result of a SWAP or COPY goes back to its port, which ceases to be pending (R83). -/
theorem State.inStepWith_bankDone {s : State} {p : Port} {c : Claim} (hc : c = .swap p ∨ c = .copy p)
    (code : ReplyCode) (detail : List Byte) (h : s.inStepWith [c]) : (s.bankDone p code detail).inStepWith [] := by
  have hport : c.port = some p := by rcases hc with rfl | rfl <;> rfl
  obtain ⟨hb, done⟩ := PortState.of_inStep_bank hc (State.inStep_of_hand h hport).1
  cases hr : (s.port p).bankRequest with
  | none => exact absurd hr hb
  | some b =>
    cases b with
    | owed request =>
      rw [State.bankDone_owed _ _ hr]
      exact State.inStepWith_judge p (State.inStepWith_answer h hport (PortState.inStep_respond _ _ _ _ done))
    | orphaned =>
      rw [State.bankDone_orphaned _ _ hr]
      exact State.inStepWith_judge p (State.inStepWith_answer h hport done)

theorem PortState.inStep_takeSnapshot {ps : PortState} {p : Port} {t : Transfer} (gen : Gen) (words : List Word)
    (hs : ps.session = .sending) (hb : ps.bankRequest = none) (hseg : ps.tSeg = none) (hc : t.closing = false) :
    (ps.takeSnapshot t gen words).inStep p [] := by
  refine PortState.inStep_form _ (PortState.inStep_respond _ _ _ _ ?_)
  simp [PortState.inStep, hs, hb, hseg, hc]

/-! ### Lines -/

theorem LineFilter.port_settle (l : LineFilter) (n : Line) (level : Bool) :
    ∀ c ∈ (l.settle n level).2, c.port = none := by
  unfold LineFilter.settle
  cases hu : l.update <;> simp [Claim.port]

theorem LineFilter.port_transition (l : LineFilter) (n : Line) (f : Nat) (level : Bool) :
    ∀ c ∈ (l.transition n f level).2, c.port = none := by
  unfold LineFilter.transition
  split
  · simp
  · dsimp only
    split
    · simp
    · split
      · simp
      · split
        · exact LineFilter.port_settle _ _ _
        · simp

theorem LineFilter.port_newFilterTime (l : LineFilter) (n : Line) (former new : Nat) :
    ∀ c ∈ (l.newFilterTime n former new).2, c.port = none := by
  unfold LineFilter.newFilterTime
  split
  · simp
  · split
    · simp
    · split
      · exact LineFilter.port_settle _ _ _
      · simp

theorem LineFilter.port_updateTaken (l : LineFilter) (n : Line) : ∀ c ∈ (l.updateTaken n).2, c.port = none := by
  unfold LineFilter.updateTaken
  cases hu : l.update <;> simp [Claim.port]

/-- A claim of a line in hand is no port's. -/
theorem State.inStepWith_ofLine {s : State} {c : Claim} (hc : c.port = none) (h : s.inStepWith [c]) :
    s.inStepWith [] :=
  ⟨h.1, fun p => by simpa [hc] using h.2 p⟩

theorem State.inStepWith_applyLine {s : State} {hand : List Claim} (n : Line) (r : LineFilter × List Claim)
    (h : s.inStepWith hand) (hr : ∀ c ∈ r.2, c.port = none) : (s.applyLine n r).inStepWith hand :=
  State.inStepWith_handOver_lines (State.inStepWith_frame (t := s.setLine n r.1) h rfl rfl) hr

theorem State.inStepWith_performSwap {s : State} {hand : List Claim} (h : s.inStepWith hand) :
    s.performSwap.inStepWith hand := by
  have lines : ({ s with image := s.image.swapBanks }.inputSwap s.image).inStepWith hand := by
    refine State.inStepWith_handOver_lines (State.inStepWith_frame h rfl rfl) fun c hc => ?_
    obtain ⟨n, -, hn⟩ := List.mem_flatMap.mp hc
    exact LineFilter.port_newFilterTime _ _ _ _ c hn
  have field : s.swapField.inStepWith hand :=
    State.inStepWith_frame lines (by simp [State.swapField, State.outputSwap])
      (by simp [State.swapField, State.outputSwap])
  exact State.inStepWith_mapPorts (State.inStepWith_frame field rfl rfl)
    fun _ _ => PortState.inStep_swapNotices _ _ _ _ _

/-! ### The commands -/

/-- What holds of a state, and of what an event makes of it while RESET_N is high, holds after the event. -/
theorem State.of_whenReleased {motive : State → Prop} {s : State} {f : State → State} (h : motive s)
    (hf : s.resetLow = false → motive (f s)) : motive (s.whenReleased f) := by
  unfold State.whenReleased
  split
  · exact h
  · next hr => exact hf (by simpa using hr)

theorem State.inStepWith_whenReleased {s : State} {hand : List Claim} {f : State → State} (h : s.inStepWith hand)
    (hf : (f s).inStepWith hand) : (s.whenReleased f).inStepWith hand :=
  State.of_whenReleased (motive := fun t => t.inStepWith hand) h fun _ => hf

theorem State.inStepWith_frameRow {s : State} (p : Port) (kind : MasterKind) (payload : List Byte)
    (h : s.inStepWith []) : (s.frameRow p kind payload).inStepWith [] :=
  State.inStepWith_whenReleased h <| by
    split
    · exact h
    · exact State.inStepWith_arrive _ _ h

theorem State.inStepWith_lineTo {s : State} {hand : List Claim} (p : Port) (level : LineLevel)
    (h : s.inStepWith hand) : (s.lineTo p level).inStepWith hand :=
  State.inStepWith_modPort h fun _ hp => hp

theorem State.inStepWith_goodCharacter {s : State} (p : Port) (data : Byte) (h : s.inStepWith []) :
    (s.goodCharacter p data).inStepWith [] := by
  have taken : (s.modPort p fun ps => ps.modRx fun rx =>
      rx.complete ((s.port p).rx.assembly.take data).1).inStepWith [] :=
    State.inStepWith_modPort h fun _ hp => hp
  unfold State.goodCharacter
  dsimp only
  split
  · exact taken
  · exact State.inStepWith_modPort taken fun _ hp => hp
  · exact State.inStepWith_arrive _ _ taken

/-- The claims of a port after the withdrawal of a snapshot claim. -/
theorem claimsOf_withdrawSnapshot (s : State) (p q : Port) :
    (s.withdrawSnapshot p).claimsOf q = (s.claimsOf q).filter fun c => !c.isSnapshotOf p := by
  have nonempty (l : List (List Claim)) : (l.filter fun batch => !batch.isEmpty).flatten = l.flatten := by
    induction l with
    | nil => rfl
    | cons batch later ih => cases batch <;> simp [ih]
  simp only [State.claimsOf, State.withdrawSnapshot, nonempty, ← List.filter_flatten, List.filter_filter, Bool.and_comm]

/-- A port reset: the snapshot claim of the port is withdrawn, and of no other (R19, R109). -/
theorem State.inStepWith_portReset {s : State} (p : Port) (h : s.inStepWith []) :
    (((s.modPort p PortState.portReset).withdrawSnapshot p).removeHoldsOf p).inStepWith [] := by
  obtain ⟨hne, hps⟩ := h
  refine ⟨?_, fun q => ?_⟩
  · simp [State.withdrawSnapshot]
  · have left : (((s.modPort p PortState.portReset).withdrawSnapshot p).removeHoldsOf p).claimsOf q =
        (s.claimsOf q).filter fun c => !c.isSnapshotOf p :=
      claimsOf_withdrawSnapshot _ _ _
    rw [List.filter_nil, List.nil_append, left, port_removeHoldsOf, port_withdrawSnapshot]
    have hq := hps q
    by_cases hqp : q = p
    · subst hqp
      rw [port_modPort_same]
      exact PortState.inStep_portReset hq
    · have : ((s.claimsOf q).filter fun c => !c.isSnapshotOf p) = s.claimsOf q := by
        refine List.filter_eq_self.mpr fun c hc => ?_
        have hcq : c.port = some q := by simpa using (List.mem_filter.mp hc).2
        cases hsnap : c.isSnapshotOf p with
        | false => rfl
        | true => exact absurd (Option.some.inj (hcq.symm.trans (Claim.port_of_isSnapshotOf hsnap))) hqp
      rw [this, port_modPort_other _ _ _ _ hqp]
      exact hq

theorem State.inStepWith_characterReceived {s : State} (p : Port) (data : Byte) (parityBit stopBit : Bool)
    (h : s.inStepWith []) :
    ∃ t, execCharacterReceived p data parityBit stopBit s = .next t ∧ t.inStepWith [] := by
  refine ⟨_, rfl, ?_⟩
  split
  · exact State.inStepWith_lineTo _ _ h
  · split
    · exact h
    · split
      · exact State.inStepWith_goodCharacter _ _ h
      · exact State.inStepWith_modPort h fun _ => PortState.inStep_charError
      · exact State.inStepWith_modPort h fun _ hp => hp

theorem State.inStepWith_execFrameSent {s : State} (p : Port) (h : s.inStepWith []) :
    ∃ t, execFrameSent p s = .next t ∧ t.inStepWith [] := by
  refine ⟨_, rfl, State.inStepWith_whenReleased h ?_⟩
  dsimp only
  split
  · exact State.inStepWith_judge p
      (State.inStepWith_setPort h fun _ hp => PortState.inStep_frameSent _ (PortState.inStep_pump hp))
  · exact h

theorem State.inStepWith_execCommit {s : State} (p : Port) (h : s.inStepWith []) :
    ∃ t, execCommit p s = .next t ∧ t.inStepWith [] := by
  refine ⟨_, rfl, State.inStepWith_whenReleased h ?_⟩
  split
  · next q op region first count rest ht =>
    have hq : q = p := by simpa [Claim.isCommitOf] using (takeClaim_some ht).1
    subst hq
    exact State.inStepWith_takeCommit (State.inStepWith_takeClaim h ht)
  · exact h

theorem State.inStepWith_execSnapshot {s : State} (p : Port) (h : s.inStepWith []) :
    ∃ t, execSnapshot p s = .next t ∧ t.inStepWith [] := by
  refine ⟨_, rfl, State.inStepWith_whenReleased h ?_⟩
  split
  · next q area edit first count rest ht =>
    have hq : q = p := by simpa [Claim.isSnapshotOf] using (takeClaim_some ht).1
    subst hq
    have taken := State.inStepWith_takeClaim h ht
    obtain ⟨hs, hb, hseg, hack, t, htr, hc⟩ := PortState.of_inStep_snapshot (State.inStep_of_hand taken rfl).1
    refine State.inStepWith_answer taken rfl ?_
    simp only [hs, htr]
    exact PortState.inStep_takeSnapshot _ _ hs hb hseg hc
  · exact h

theorem State.inStepWith_execInputUpdate {s : State} (n : Line) (h : s.inStepWith []) :
    ∃ t, execInputUpdate n s = .next t ∧ t.inStepWith [] := by
  refine ⟨_, rfl, State.inStepWith_whenReleased h ?_⟩
  split
  · next m level rest ht =>
    have taken := State.inStepWith_ofLine rfl (State.inStepWith_takeClaim h ht)
    exact State.inStepWith_applyLine _ _ (State.inStepWith_report _ (State.inStepWith_frame taken rfl rfl))
      (LineFilter.port_updateTaken _ _)
  · exact h

theorem State.inStepWith_execSwapClaim {s : State} (p : Port) (h : s.inStepWith []) :
    ∃ t, execSwapClaim p s = .next t ∧ t.inStepWith [] := by
  refine ⟨_, rfl, State.inStepWith_whenReleased h ?_⟩
  split
  · next c rest ht =>
    obtain rfl := Claim.eq_of_isSwapOf (takeClaim_some ht).1
    have taken := State.inStepWith_takeClaim h ht
    dsimp only
    split
    · exact State.inStepWith_bankDone (.inl rfl) _ _ taken
    · split
      · exact State.inStepWith_bankDone (.inl rfl) _ _ taken
      · exact State.inStepWith_bankDone (.inl rfl) _ _ (State.inStepWith_performSwap taken)
  · exact h

theorem State.inStepWith_execCopyClaim {s : State} (p : Port) (h : s.inStepWith []) :
    ∃ t, execCopyClaim p s = .next t ∧ t.inStepWith [] := by
  refine ⟨_, rfl, State.inStepWith_whenReleased h ?_⟩
  split
  · next c rest ht =>
    obtain rfl := Claim.eq_of_isCopyOf (takeClaim_some ht).1
    have taken := State.inStepWith_takeClaim h ht
    dsimp only
    split
    · exact State.inStepWith_bankDone (.inr rfl) _ _ taken
    · exact State.inStepWith_bankDone (.inr rfl) _ _ (State.inStepWith_report _ (State.inStepWith_frame taken rfl rfl))
  · exact h

theorem State.inStepWith_enterFallback {s : State} {hand : List Claim} (g : Group) (h : s.inStepWith hand) :
    (s.enterFallback g).inStepWith hand := by
  have driven x : ((s.setGroup g x).driveLines).inStepWith hand := State.inStepWith_frame h (by simp) (by simp)
  unfold State.enterFallback
  dsimp only
  split
  · exact State.inStepWith_reportItem _ _ (driven _)
  · exact driven _

/-- RESET_N at either edge leaves no claim, and no port that waits for one. -/
theorem State.inStepWith_noClaims {s : State} (hc : s.claims = []) (hp : ∀ p, (s.port p).inStep p []) :
    s.inStepWith [] :=
  ⟨by simp [hc], fun p => by simpa [State.claimsOf, hc] using hp p⟩

/-- A row that is the arrival of a frame is taken as that frame (R67). -/
theorem exec_of_frameOf {c : Instr} {p : Port} {kind : MasterKind} {payload : List Byte}
    (h : frameOf c = some (p, kind, payload)) (s : State) : exec c s = .next (s.frameRow p kind payload) := by
  cases c <;> cases h <;> rfl

/-- Every command answers a next state, and keeps the ports in step with the claims. -/
theorem State.inStepWith_exec {s : State} (c : Instr) (h : s.inStepWith []) :
    ∃ t, exec c s = .next t ∧ t.inStepWith [] := by
  cases hframe : frameOf c with
  | some frame => exact ⟨_, exec_of_frameOf hframe s, State.inStepWith_frameRow _ _ _ h⟩
  | none =>
    cases c with
    | resetNAssert =>
      refine ⟨_, rfl, State.inStepWith_noClaims rfl fun p => ?_⟩
      simpa [State.port, Vector.get_eq_getElem] using PortState.inStep_stopped (s.port p) p
    | resetNRelease rate par =>
      refine ⟨_, rfl, State.inStepWith_noClaims rfl fun p => ?_⟩
      simpa [State.port, Vector.get_eq_getElem] using PortState.inStep_reset (s.port p).rx.line p
    | characterReceived p data parityBit stopBit => exact State.inStepWith_characterReceived _ _ _ _ h
    | framingError p =>
      refine ⟨_, rfl, ?_⟩
      split
      · exact State.inStepWith_lineTo _ _ h
      · refine State.inStepWith_modPort h fun cs hp => ?_
        split
        · exact hp
        · exact PortState.inStep_charError hp
    | gapLimitExpiry p =>
      refine ⟨_, rfl, State.inStepWith_whenReleased h (State.inStepWith_modPort h fun cs hp => ?_)⟩
      split <;> exact hp
    | breakDetected p =>
      refine ⟨_, rfl, State.inStepWith_whenReleased h ?_⟩
      split
      · exact h
      · exact State.inStepWith_portReset p h
    | breakEnd p =>
      refine ⟨_, rfl, ?_⟩
      split
      · exact State.inStepWith_lineTo _ _ h
      · split
        · exact State.inStepWith_judge p (State.inStepWith_modPort h fun _ hp => PortState.inStep_pump hp)
        · exact h
    | frameSent p => exact State.inStepWith_execFrameSent p h
    | tSegExpiry p =>
      refine ⟨_, rfl, State.inStepWith_whenReleased h (State.inStepWith_modPort h fun cs hp => ?_)⟩
      split
      · next hd => exact PortState.inStep_segExpiry hp hd
      · exact hp
    | tAckExpiry p =>
      refine ⟨_, rfl, State.inStepWith_whenReleased h (State.inStepWith_modPort h fun cs hp => ?_)⟩
      split
      · next hd => exact PortState.inStep_ackExpiry hp hd
      · exact hp
    | tNtcExpiry p =>
      refine ⟨_, rfl, State.inStepWith_whenReleased h (State.inStepWith_modPort h fun cs hp => ?_)⟩
      split
      · next hd => exact PortState.inStep_noticeExpiry _ _ _ (PortState.session_of_noticeDue hd) hp
      · exact hp
    | leaseExpiry id =>
      refine ⟨_, rfl, State.inStepWith_whenReleased h ?_⟩
      split
      · exact h
      · exact State.inStepWith_reportItem _ _ (State.inStepWith_frame (t := s.removeHold id) h rfl rfl)
    | refreshTimerExpiry g =>
      refine ⟨_, rfl, State.inStepWith_whenReleased h ?_⟩
      split
      · exact State.inStepWith_enterFallback g h
      · exact h
    | inputTransition n level =>
      refine ⟨_, rfl, ?_⟩
      split
      · exact State.inStepWith_frame h rfl rfl
      · exact State.inStepWith_applyLine _ _ h (LineFilter.port_transition _ _ _ _)
    | measurementExpiry n =>
      refine ⟨_, rfl, State.inStepWith_whenReleased h ?_⟩
      split
      · exact State.inStepWith_applyLine _ _ h (LineFilter.port_settle _ _ _)
      · exact h
    | commit p => exact State.inStepWith_execCommit p h
    | snapshot p => exact State.inStepWith_execSnapshot p h
    | inputUpdate n => exact State.inStepWith_execInputUpdate n h
    | swapClaim p => exact State.inStepWith_execSwapClaim p h
    | copyClaim p => exact State.inStepWith_execCopyClaim p h
    | startBit p =>
      refine ⟨_, rfl, ?_⟩
      split
      · exact State.inStepWith_lineTo _ _ h
      · refine State.inStepWith_modPort h fun cs hp => ?_
        split <;> exact hp
    | _ => simp [frameOf] at hframe

theorem State.inStepWith_tick {s : State} (h : s.inStepWith []) : s.tick.inStepWith [] :=
  State.inStepWith_whenReleased h <| State.inStepWith_of_ports h rfl fun p cs hp => by
    simpa [State.port, Vector.get_eq_getElem] using PortState.inStep_tick hp

/-- What answers a next state is known by it. -/
theorem State.inStepWith_of_exec {s t : State} {c : Instr} (h : s.inStepWith []) (he : exec c s = .next t) :
    t.inStepWith [] := by
  obtain ⟨t', he', ht'⟩ := State.inStepWith_exec c h
  rw [he] at he'
  cases he'
  exact ht'

/-- Settles O58: a step is a command, the beginning of frames, or a millisecond, and each keeps every port in step. -/
theorem stepKeepsSessionsSound : Obligations.StepKeepsSessionsSound := by
  intro s t hs hstep
  rw [← State.inStepWith_nil] at hs ⊢
  unfold step at hstep
  split at hstep
  · next c rest _ =>
    have queued : { s with pending := rest }.inStepWith [] := State.inStepWith_frame hs rfl rfl
    exact State.inStepWith_of_exec queued hstep
  · split at hstep
    · cases hstep
      exact State.inStepWith_mapPorts hs fun _ _ => PortState.inStep_pump
    · split at hstep
      · exact State.inStepWith_of_exec hs hstep
      · cases hstep
        exact State.inStepWith_tick hs

end Sys2Proof.Machine
end

section
/-! PROOFS. RESET_N: what its two edges set, and what the other commands do while it is low. -/

namespace Sys2Proof.Machine

/-! ### The state at the release -/

theorem port_reset (p : Port) : State.reset.port p = PortState.reset .mark := by
  simp [State.port, State.reset, Vector.get_eq_getElem]

theorem line_reset (n : Line) : State.reset.line n = LineFilter.reset false := by
  simp [State.line, State.reset, Vector.get_eq_getElem]

theorem group_reset (g : Group) : State.reset.group g = GroupState.reset := by
  simp [State.group, State.reset, Vector.get_eq_getElem]

/-- At the release a word holds its reset word (R6, R42). -/
theorem word_reset (r : Region) (i : Nat) : Image.reset.word r i = r.resetWord i := by
  rcases r with _ | _ | _ | b
  · rfl
  · rfl
  · rfl
  · cases b <;> rfl

theorem liveWord_reset (i : Nat) : State.reset.image.liveWord i = prmDefault i := word_reset _ i

theorem imageSound_reset : ImageSound State.reset := by
  unfold ImageSound
  simp only [liveWord_reset]
  decide

theorem holdsSound_reset : HoldsSound State.reset := by simp [HoldsSound, State.reset]

theorem framesSound_reset : FramesSound State.reset := fun p => by
  rw [port_reset]
  simp [PortState.framesSound, PortState.reset, Transmitter.reset]

theorem noticesSound_reset : NoticesSound State.reset := fun p => by
  rw [port_reset]
  simp [PortState.noticesSound, PortState.reset, NoticeState.reset, Transmitter.reset]

theorem sessionsSound_reset : SessionsSound State.reset :=
  State.inStepWith_nil.mp <| State.inStepWith_noClaims rfl fun p => by
    rw [port_reset]
    exact PortState.inStep_reset _ _

theorem inputsSound_reset : InputsSound State.reset := by
  intro _
  have noClaims : State.reset.claims = [] := rfl
  refine ⟨by simp [noClaims], by simp [noClaims], fun n => ?_⟩
  have low : State.reset.image.inputBit n = false := by simp [Image.inputBit, State.reset, word_reset, Region.resetWord]
  simp [line_reset, LineFilter.reset, State.lineClaims, noClaims, low]

theorem outputsSound_reset : OutputsSound State.reset := by
  intro _
  have unsupervised (g : Group) :
      State.reset.group g = { mode := .unsupervised, owner := 15, refresh := 0, timer := none } := group_reset g
  refine ⟨fun n => ?_, fun g => ?_⟩
  · have low : State.reset.driven.get n = false := by simp [State.reset, Vector.get_eq_getElem]
    have zero : State.reset.image.word .out (n.val / 16) = 0 := word_reset _ _
    simp [unsupervised, low, zero]
  · simp only [unsupervised, liveWord_reset]
    revert g
    decide

/-- Settles O5: invariant by invariant. -/
theorem resetStateIsSound : Obligations.ResetStateIsSound :=
  ⟨imageSound_reset, holdsSound_reset, framesSound_reset, noticesSound_reset, sessionsSound_reset,
    inputsSound_reset, outputsSound_reset⟩

/-! ### The release -/

/-- The part that a release leaves, with the straps and lines at their levels. -/
def State.released (s : State) (rate : BitVec 3) (par : Bool) : State :=
  { State.reset with
    rateCode := rate
    parity := par
    ports := Vector.ofFn fun p => PortState.reset (s.port p).rx.line
    lines := Vector.ofFn fun n => LineFilter.reset (s.line n).level
    pending := s.pending
    choices := s.choices }

theorem exec_resetNRelease (s : State) (rate : BitVec 3) (par : Bool) :
    exec (.resetNRelease rate par) s = .next (s.released rate par) := rfl

theorem port_released (s : State) (rate : BitVec 3) (par : Bool) (p : Port) :
    (s.released rate par).port p = PortState.reset (s.port p).rx.line := by
  simp [State.released, State.port, Vector.get_eq_getElem]

theorem line_released (s : State) (rate : BitVec 3) (par : Bool) (n : Line) :
    (s.released rate par).line n = LineFilter.reset (s.line n).level := by
  simp [State.released, State.line, Vector.get_eq_getElem]

theorem group_released (s : State) (rate : BitVec 3) (par : Bool) (g : Group) :
    (s.released rate par).group g = GroupState.reset := group_reset g

theorem word_released (s : State) (rate : BitVec 3) (par : Bool) (r : Region) (i : Nat) :
    (s.released rate par).image.word r i = r.resetWord i := word_reset r i

theorem counters_reset_word (k : Nat) : Counters.reset.word k = 0 := by
  unfold Counters.word
  split <;> rfl

/-- The words of DIA that mirror groups, counters and lost counts are 0 (R161). -/
theorem diaWord_released (s : State) (rate : BitVec 3) (par : Bool) (i : Nat) (h8 : 8 ≤ i) (h40 : i < 40) :
    (s.released rate par).diaWord i = 0 := by
  have mode g : ((s.released rate par).group g).mode.word = 0 := by rw [group_released]; rfl
  have counter p k : ((s.released rate par).port p).counters.word k = 0 := by
    rw [port_released]; exact counters_reset_word k
  have lost p : ((s.released rate par).port p).notice.lost = 0 := by rw [port_released]; rfl
  have h (k : Nat) (hk : k < 8) : i ≠ k := by omega
  simp [State.diaWord, h, mode, counter, lost]

/-- The words of DIA that tell the part, the generation, the live bank, the holds in use and the straps (R161). -/
theorem diaWord_released_head (s : State) (rate : BitVec 3) (par : Bool) :
    let dia := (s.released rate par).diaWord
    dia 0 = 0x4120 ∧ dia 1 = 0x0103 ∧ dia 2 = 0 ∧ dia 3 = 0 ∧ dia 4 = 0 ∧ dia 5 = 0 ∧ dia 6 = rate.setWidth 16 ∧
      dia 7 = if par then 1 else 0 := by
  cases par <;>
    simp [State.diaWord, State.released, State.reset, Image.reset, Config.deviceCode, Config.revision, Bank.toNat]

/-- Settles O4: the image with the words of DIA, then the blocks. -/
theorem releaseSetsPowerOnValues : Obligations.ReleaseSetsPowerOnValues := by
  refine ⟨fun rate par s => ⟨_, exec_resetNRelease s rate par, ?_⟩,
    fun rate par s => ⟨_, exec_resetNRelease s rate par, ?_⟩⟩
  · obtain ⟨h0, h1, h2, h3, h4, h5, h6, h7⟩ := diaWord_released_head s rate par
    exact ⟨rfl, rfl, rfl, rfl, fun i => ⟨word_released .., word_released .., word_released ..⟩,
      fun b i => word_released .., h0, h1, h2, h3, h4, h5, h6, h7, diaWord_released s rate par⟩
  · refine ⟨rfl, rfl, rfl, rfl, rfl, fun p => ?_, fun n => line_released .., fun g => group_released .., fun n => ?_⟩
    · rw [port_released]
      refine ⟨rfl, rfl, rfl, rfl, rfl, rfl, rfl, rfl, rfl, rfl, fun i => ?_, rfl, rfl, rfl, rfl, rfl, rfl,
        counters_reset_word⟩
      simp [PortState.reset, NoticeState.reset, Vector.get_eq_getElem]
    · simp [State.released, State.reset, Vector.get_eq_getElem]

/-! ### While RESET_N is low -/

theorem State.whenReleased_low {s : State} (h : s.resetLow = true) (f : State → State) : s.whenReleased f = s := by
  simp [State.whenReleased, h]

theorem State.whenReleased_high {s : State} (h : s.resetLow = false) (f : State → State) : s.whenReleased f = f s := by
  simp [State.whenReleased, h]

/-- A frame row and any event but those of the pins has no effect while RESET_N is low; of those the level of the line
is kept. -/
theorem exec_low (c : Instr) (s : State) (h : s.resetLow = true) (ha : c ≠ .resetNAssert)
    (hr : ∀ rate par, c ≠ .resetNRelease rate par) :
    exec c s = .next s ∨ (∃ p level, exec c s = .next (s.lineTo p level)) ∨
      ∃ n level, exec c s = .next (s.setLine n { s.line n with level := level }) := by
  have idle (f : State → State) : (Host.Outcome.next (s.whenReleased f) : Host.Outcome State Fault Refusal) = .next s := by
    rw [State.whenReleased_low h]
  cases hframe : frameOf c with
  | some frame => exact .inl ((exec_of_frameOf hframe s).trans (idle _))
  | none =>
    cases c with
    | resetNAssert => exact absurd rfl ha
    | resetNRelease rate par => exact absurd rfl (hr rate par)
    | startBit p => exact .inr (.inl ⟨p, .space, by simp [exec, execStartBit, h]⟩)
    | characterReceived p data parityBit stopBit =>
      exact .inr (.inl ⟨p, if stopBit then .mark else .space, by simp [exec, execCharacterReceived, h]⟩)
    | framingError p => exact .inr (.inl ⟨p, .mark, by simp [exec, execFramingError, h]⟩)
    | breakEnd p => exact .inr (.inl ⟨p, .mark, by simp [exec, execBreakEnd, h]⟩)
    | inputTransition n level => exact .inr (.inr ⟨n, level, by simp [exec, execInputTransition, h]⟩)
    | gapLimitExpiry p => exact .inl (idle _)
    | breakDetected p => exact .inl (idle _)
    | frameSent p => exact .inl (idle _)
    | tSegExpiry p => exact .inl (idle _)
    | tAckExpiry p => exact .inl (idle _)
    | tNtcExpiry p => exact .inl (idle _)
    | leaseExpiry id => exact .inl (idle _)
    | refreshTimerExpiry g => exact .inl (idle _)
    | measurementExpiry n => exact .inl (idle _)
    | commit p => exact .inl (idle _)
    | snapshot p => exact .inl (idle _)
    | inputUpdate n => exact .inl (idle _)
    | swapClaim p => exact .inl (idle _)
    | copyClaim p => exact .inl (idle _)
    | _ => simp [frameOf] at hframe

/-- Settles O3: what the fall of RESET_N sets, then what the other commands do while it is low. -/
theorem resetLowStopsThePart : Obligations.ResetLowStopsThePart := by
  refine ⟨fun s => ⟨_, rfl, rfl, fun n => ?_, fun n => ?_, fun g => ?_, fun p => ?_⟩, fun c s h ha hr => ?_⟩
  · simp [Vector.get_eq_getElem]
  · simp [State.line, Vector.get_eq_getElem]
  · simp [State.group, Vector.get_eq_getElem]
  · simp [State.port, Vector.get_eq_getElem, PortState.stopped, Receiver.reset, Transmitter.reset]
  · rcases exec_low c s h ha hr with he | ⟨p, level, he⟩ | ⟨n, level, he⟩
    · exact ⟨s, he, rfl, fun _ => rfl, fun _ => rfl⟩
    · refine ⟨_, he, rfl, fun q => ?_, fun _ => rfl⟩
      by_cases hq : q = p
      · subst hq
        simp [State.lineTo, PortState.modRx]
      · rw [State.lineTo, port_modPort_other _ _ _ _ hq]
    · refine ⟨_, he, rfl, fun _ => rfl, fun m => ?_⟩
      by_cases hm : m = n
      · subst hm
        simp
      · rw [line_setLine_other _ _ _ _ hm]

end Sys2Proof.Machine
end

section
/-! PROOFS. The image: which words a commit writes, and which commands change the image at all. -/

namespace Sys2Proof.Machine

/-! ### The words of a commit -/

/-- Writing a run of words changes no word outside the run, whether or not the run lies in its area. -/
theorem Image.word_writeWords_outside (im : Image) (r r' : Region) (i j : Nat) (vs : List Word)
    (h : r' ≠ r ∨ j < i ∨ i + vs.length ≤ j) : (im.writeWords r i vs).word r' j = im.word r' j := by
  induction vs generalizing im i with
  | nil => rfl
  | cons v vs ih =>
    simp only [List.length_cons] at h
    rw [Image.writeWords, ih _ _ (h.imp_right fun h => by omega), Image.word_writeWord, if_neg]
    · rintro ⟨rfl, rfl, -⟩
      rcases h with h | h
      · exact h rfl
      · omega

/-- Applying a run of pairs changes no word outside the run. -/
theorem Image.word_maskWords_outside (im : Image) (r r' : Region) (i j : Nat) (ps : List (Word × Word))
    (h : r' ≠ r ∨ j < i ∨ i + ps.length ≤ j) : (im.maskWords r i ps).word r' j = im.word r' j := by
  induction ps generalizing im i with
  | nil => rfl
  | cons v ps ih =>
    simp only [List.length_cons] at h
    rw [Image.maskWords, ih _ _ (h.imp_right fun h => by omega), Image.word_writeWord, if_neg]
    · rintro ⟨rfl, rfl, -⟩
      rcases h with h | h
      · exact h rfl
      · omega

@[simp] theorem length_stagedWords (buffer : List Word) (count : Nat) : (stagedWords buffer count).length = count := by
  simp [stagedWords]

@[simp] theorem length_stagedPairs (buffer : List Word) (count : Nat) : (stagedPairs buffer count).length = count := by
  simp [stagedPairs]

@[simp] theorem Image.gen_commitWords (im : Image) (op : WriteOp) (r : Region) (first count : Nat)
    (buffer : List Word) : (im.commitWords op r first count buffer).gen = im.gen := by
  cases op <;> simp [Image.commitWords]

@[simp] theorem Image.live_commitWords (im : Image) (op : WriteOp) (r : Region) (first count : Nat)
    (buffer : List Word) : (im.commitWords op r first count buffer).live = im.live := by
  cases op <;> simp [Image.commitWords]

@[simp] theorem Image.word_bumpGen (im : Image) (r : Region) (i : Nat) : im.bumpGen.word r i = im.word r i := by
  simp [Image.word]

@[simp] theorem Image.gen_bumpGen (im : Image) : im.bumpGen.gen = im.gen + 1 := rfl

@[simp] theorem Image.live_bumpGen (im : Image) : im.bumpGen.live = im.live := rfl

/-- A commit changes no word outside its range. -/
theorem Image.word_commitWords_outside (im : Image) (op : WriteOp) (r r' : Region) (first count j : Nat)
    (buffer : List Word) (h : r' ≠ r ∨ j < first ∨ first + count ≤ j) :
    (im.commitWords op r first count buffer).word r' j = im.word r' j := by
  cases op with
  | write => exact Image.word_writeWords_outside _ _ _ _ _ _ (by simpa using h)
  | mwrite => exact Image.word_maskWords_outside _ _ _ _ _ _ (by simpa using h)

/-- The staged words of a WRITE, in order, are the words of the range (R11). -/
theorem Image.word_commitWords_write (im : Image) (r : Region) {first count j : Nat} (buffer : List Word)
    (inside : first + count ≤ r.area.size) (hj : j < count) :
    (im.commitWords .write r first count buffer).word r (first + j) = buffer.getD j 0 := by
  rw [Image.commitWords, Image.word_writeWords _ _ _ _ _ _ (by simpa using inside)]
  simp [hj, stagedWords, slotWord]

/-- Each word of the range of an MWRITE is changed by its staged pair (R12). -/
theorem Image.word_commitWords_mwrite (im : Image) (r : Region) {first count j : Nat} (buffer : List Word)
    (inside : first + count ≤ r.area.size) (hj : j < count) :
    (im.commitWords .mwrite r first count buffer).word r (first + j) =
      maskWord (im.word r (first + j)) (buffer.getD (2 * j) 0) (buffer.getD (2 * j + 1) 0) := by
  rw [Image.commitWords, Image.word_maskWords _ _ _ _ _ _ (by simpa using inside)]
  simp [hj, stagedPairs, slotWord]

/-! ### The image after each shared operation -/

@[simp] theorem image_judge (s : State) (p : Port) : (s.judge p).image = s.image := rfl

@[simp] theorem image_report (s : State) (r : Report) : (s.report r).image = s.image := rfl

@[simp] theorem image_reportItem (s : State) (q : Port) (item : Notice) : (s.reportItem q item).image = s.image := rfl

@[simp] theorem image_lineTo (s : State) (p : Port) (level : LineLevel) : (s.lineTo p level).image = s.image := rfl

@[simp] theorem image_applyLine (s : State) (n : Line) (r : LineFilter × List Claim) :
    (s.applyLine n r).image = s.image := by simp [State.applyLine]

@[simp] theorem image_outputCommit (s : State) (p : Port) (written : Nat → Word) :
    (s.outputCommit p written).image = s.image := by simp [State.outputCommit]

@[simp] theorem image_outputSwap (s : State) : s.outputSwap.image = s.image := by simp [State.outputSwap]

@[simp] theorem image_inputSwap (s : State) (former : Image) : (s.inputSwap former).image = s.image := by
  simp [State.inputSwap]

@[simp] theorem image_enterFallback (s : State) (g : Group) : (s.enterFallback g).image = s.image := by
  unfold State.enterFallback
  dsimp only
  split <;> simp

@[simp] theorem image_commitDone (s : State) (p : Port) (outcome : FinOutcome) (gen : Gen) (detail : Byte) :
    (s.commitDone p outcome gen detail).image = s.image := by
  unfold State.commitDone
  dsimp only
  split <;> rfl

@[simp] theorem image_bankDone (s : State) (p : Port) (code : ReplyCode) (detail : List Byte) :
    (s.bankDone p code detail).image = s.image := by
  unfold State.bankDone
  dsimp only
  split <;> rfl

theorem image_applyCommit (s : State) (p : Port) (op : WriteOp) (r : Region) (first count : Nat) :
    (s.applyCommit p op r first count).image =
      (s.image.commitWords op r first count (s.port p).buffer).bumpGen := by
  unfold State.applyCommit
  dsimp only
  split <;> simp

theorem image_performSwap (s : State) : s.performSwap.image = s.image.swapBanks := by
  simp [State.performSwap, State.swapField]

/-! ### Frames leave the image -/

theorem image_performTransfer (s : State) (p : Port) (request : List Byte) (op : TransferOp)
    (areaCode flags : Byte) (first count : Nat) :
    (s.performTransfer p request op areaCode flags first count).image = s.image := by
  unfold State.performTransfer
  split
  · rfl
  · split
    · rfl
    · dsimp only
      split
      · simp [State.acceptRead]
      · rfl

theorem image_performHold (s : State) (p : Port) (request : List Byte) (areaCode : Byte) (first count : Nat)
    (lease : Word) : (s.performHold p request areaCode first count lease).image = s.image := by
  unfold State.performHold
  split
  · rfl
  · split
    · rfl
    · simp

theorem image_performRelease (s : State) (p : Port) (request : List Byte) (id : Byte) :
    (s.performRelease p request id).image = s.image := by
  unfold State.performRelease
  split
  · rfl
  · split <;> rfl

theorem image_performRenew (s : State) (p : Port) (request : List Byte) (id : Byte) (lease : Word) :
    (s.performRenew p request id lease).image = s.image := by
  unfold State.performRenew
  split
  · rfl
  · split
    · rfl
    · split <;> rfl

theorem image_perform (s : State) (p : Port) (request : List Byte) (r : Request) :
    (s.perform p request r).image = s.image := by
  cases r with
  | read => exact image_performTransfer ..
  | write => exact image_performTransfer ..
  | mwrite => exact image_performTransfer ..
  | hold => exact image_performHold ..
  | release => exact image_performRelease ..
  | renew => exact image_performRenew ..
  | subscribe => rfl
  | unsubscribe => rfl
  | swap => exact image_handOver ..
  | copy => exact image_handOver ..
  | ping => rfl

theorem image_judgeRequest (s : State) (p : Port) (request : List Byte) :
    (s.judgeRequest p request).image = s.image := by
  unfold State.judgeRequest
  split
  · rfl
  · split
    · rfl
    · split
      · rfl
      · exact image_perform ..

theorem image_takeReq (s : State) (p : Port) (request : List Byte) : (s.takeReq p request).image = s.image := by
  unfold State.takeReq
  split
  · rfl
  · split
    · exact image_judgeRequest ..
    · split
      · rfl
      · exact image_judgeRequest ..
    · rfl

theorem image_storeSegment (s : State) (p : Port) (t : Transfer) (data : List Byte) :
    (s.storeSegment p t data).image = s.image := by
  unfold State.storeSegment
  dsimp only
  split
  · rfl
  · exact image_handOver ..

theorem image_takeDat (s : State) (p : Port) (payload : List Byte) : (s.takeDat p payload).image = s.image := by
  unfold State.takeDat State.receiveSegment
  split
  · dsimp only
    split
    · rfl
    · rfl
    · split
      · split
        · exact image_storeSegment ..
        · split <;> rfl
      · rfl
    · rfl
  · rfl

@[simp] theorem image_arrive (s : State) (p : Port) (kind : MasterKind) (payload : List Byte) :
    (s.arrive p kind payload).image = s.image := by
  cases kind with
  | req => exact image_takeReq ..
  | dat => exact image_takeDat ..
  | ack => rfl
  | nak => rfl
  | abt => rfl
  | nta => rfl

/-! ### Commands and the image -/

/-- The image after an event that acts only while RESET_N is high, if the event leaves it. -/
theorem image_whenReleased {s : State} {f : State → State} (hf : (f s).image = s.image) :
    (s.whenReleased f).image = s.image :=
  State.of_whenReleased (motive := fun t => t.image = s.image) rfl fun _ => hf

theorem image_frameRow (s : State) (p : Port) (kind : MasterKind) (payload : List Byte) :
    (s.frameRow p kind payload).image = s.image :=
  image_whenReleased (by split <;> simp)

theorem image_goodCharacter (s : State) (p : Port) (data : Byte) : (s.goodCharacter p data).image = s.image := by
  unfold State.goodCharacter
  dsimp only
  split
  · rfl
  · rfl
  · exact image_arrive ..

/-- The five rows that may change the image (R7, R21). -/
def changesImage : Instr → Bool
  | .commit _ => true
  | .inputUpdate _ => true
  | .swapClaim _ => true
  | .copyClaim _ => true
  | .resetNRelease _ _ => true
  | _ => false

/-- Every other row leaves the image. -/
theorem exec_image {c : Instr} (hc : changesImage c = false) (s : State) :
    ∃ t, exec c s = .next t ∧ t.image = s.image := by
  cases hframe : frameOf c with
  | some frame => exact ⟨_, exec_of_frameOf hframe s, image_frameRow ..⟩
  | none =>
    cases c with
    | resetNAssert => exact ⟨_, rfl, rfl⟩
    | characterReceived p data parityBit stopBit =>
      refine ⟨_, rfl, ?_⟩
      split
      · rfl
      · split
        · rfl
        · split
          · exact image_goodCharacter ..
          · rfl
          · rfl
    | framingError p => refine ⟨_, rfl, ?_⟩; split <;> rfl
    | gapLimitExpiry p => exact ⟨_, rfl, image_whenReleased rfl⟩
    | breakDetected p => exact ⟨_, rfl, image_whenReleased (by split <;> rfl)⟩
    | breakEnd p =>
      refine ⟨_, rfl, ?_⟩
      split
      · rfl
      · split <;> rfl
    | frameSent p => exact ⟨_, rfl, image_whenReleased (by dsimp only; split <;> rfl)⟩
    | tSegExpiry p => exact ⟨_, rfl, image_whenReleased rfl⟩
    | tAckExpiry p => exact ⟨_, rfl, image_whenReleased rfl⟩
    | tNtcExpiry p => exact ⟨_, rfl, image_whenReleased rfl⟩
    | leaseExpiry id => exact ⟨_, rfl, image_whenReleased (by split <;> rfl)⟩
    | refreshTimerExpiry g => exact ⟨_, rfl, image_whenReleased (by split <;> simp)⟩
    | inputTransition n level => refine ⟨_, rfl, ?_⟩; split <;> simp
    | measurementExpiry n => exact ⟨_, rfl, image_whenReleased (by split <;> simp)⟩
    | snapshot p => exact ⟨_, rfl, image_whenReleased (by split <;> rfl)⟩
    | startBit p => refine ⟨_, rfl, ?_⟩; split <;> rfl
    | commit p => cases hc
    | inputUpdate n => cases hc
    | swapClaim p => cases hc
    | copyClaim p => cases hc
    | resetNRelease rate par => cases hc
    | _ => simp [frameOf] at hframe

/-! ### The taking of a commit -/

/-- A COMMIT takes the port's commit claim, if it stands among the oldest, or has no effect. -/
theorem exec_commit_cases {p : Port} {s t : State} (h : exec (.commit p) s = .next t) :
    t = s ∨ ∃ op region first count rest, t = { s with claims := rest }.takeCommit p op region first count := by
  obtain rfl := Host.Outcome.next.inj h
  refine State.of_whenReleased (motive := fun t => t = s ∨ ∃ op region first count rest,
    t = { s with claims := rest }.takeCommit p op region first count) (.inl rfl) fun _ => ?_
  split
  · exact .inr ⟨_, _, _, _, _, rfl⟩
  · exact .inl rfl

/-- The image after a commit is the committed one if the checks pass, and as it was if not. -/
theorem image_takeCommit (s : State) (p : Port) (op : WriteOp) (r : Region) (first count : Nat) :
    (s.takeCommit p op r first count).image =
      if commitCheck s.image s.holds p r first count = .ok then
        (s.image.commitWords op r first count (s.port p).buffer).bumpGen
      else s.image := by
  unfold State.takeCommit
  split
  · next h => simp [h, image_applyCommit]
  · next h => simp [h]
  · next h => simp [h]

/-- A commit that passes the checks meets no hold of another port. -/
theorem blocking_of_commitCheck_ok {im : Image} {holds : List Hold} {p : Port} {r : Region} {first count : Nat}
    (h : commitCheck im holds p r first count = .ok) : blocking holds p r.area first (first + count - 1) = none := by
  unfold commitCheck at h
  split at h
  · cases h
  · split at h
    · cases h
    · assumption

/-- Settles O53: what a hold of another port covers lies outside the range of a commit that passes the checks. -/
theorem heldWordIsNotWritten : Obligations.HeldWordIsNotWritten := by
  intro p s t h region i he hh howner harea hfirst hlast
  rcases exec_commit_cases he with rfl | ⟨op, r, first, count, rest, rfl⟩
  · rfl
  · rw [image_takeCommit]
    split
    · next hok =>
      rw [Image.word_bumpGen]
      refine Image.word_commitWords_outside _ _ _ _ _ _ _ _ (Classical.byContradiction fun hin => ?_)
      simp only [not_or, not_not, not_lt, not_le] at hin
      obtain ⟨rfl, hle, hlt⟩ := hin
      have free := (blocking_eq_none (by omega)).mp (blocking_of_commitCheck_ok hok)
      exact free h hh howner ⟨harea, by omega, by omega⟩
    · rfl

/-! ### The generation -/

theorem gen_takeCommit (s : State) (p : Port) (op : WriteOp) (r : Region) (first count : Nat) :
    (s.takeCommit p op r first count).image.gen = s.image.gen ∨
      (s.takeCommit p op r first count).image.gen = s.image.gen + 1 := by
  rw [image_takeCommit]
  split
  · exact .inr (by simp)
  · exact .inl rfl

theorem gen_setInput (im : Image) (n : Line) (level : Bool) : (im.setInput n level).gen = im.gen := by
  simp [Image.setInput]

/-- What an event makes of the generation while RESET_N is high: what it was, or one more. -/
theorem gen_whenReleased {s : State} {f : State → State}
    (hf : (f s).image.gen = s.image.gen ∨ (f s).image.gen = s.image.gen + 1) :
    (s.whenReleased f).image.gen = s.image.gen ∨ (s.whenReleased f).image.gen = s.image.gen + 1 :=
  State.of_whenReleased (motive := fun t => t.image.gen = s.image.gen ∨ t.image.gen = s.image.gen + 1)
    (.inl rfl) fun _ => hf

theorem gen_execCommit {p : Port} {s t : State} (h : exec (.commit p) s = .next t) :
    t.image.gen = s.image.gen ∨ t.image.gen = s.image.gen + 1 := by
  rcases exec_commit_cases h with rfl | ⟨op, r, first, count, rest, rfl⟩
  · exact .inl rfl
  · exact gen_takeCommit { s with claims := rest } p op r first count

theorem gen_execInputUpdate {n : Line} {s t : State} (h : exec (.inputUpdate n) s = .next t) :
    t.image.gen = s.image.gen := by
  obtain rfl := Host.Outcome.next.inj h
  refine State.of_whenReleased (motive := fun t => t.image.gen = s.image.gen) rfl fun _ => ?_
  split
  · simp [gen_setInput]
  · rfl

theorem gen_execSwapClaim {p : Port} {s t : State} (h : exec (.swapClaim p) s = .next t) :
    t.image.gen = s.image.gen ∨ t.image.gen = s.image.gen + 1 := by
  obtain rfl := Host.Outcome.next.inj h
  refine gen_whenReleased ?_
  split
  · dsimp only
    split
    · exact .inl (by simp)
    · split
      · exact .inl (by simp)
      · exact .inr (by simp [image_performSwap, Image.swapBanks])
  · exact .inl rfl

theorem gen_execCopyClaim {p : Port} {s t : State} (h : exec (.copyClaim p) s = .next t) :
    t.image.gen = s.image.gen ∨ t.image.gen = s.image.gen + 1 := by
  obtain rfl := Host.Outcome.next.inj h
  refine gen_whenReleased ?_
  split
  · dsimp only
    split
    · exact .inl (by simp)
    · exact .inr (by simp [Image.copyBank])
  · exact .inl rfl

/-- Settles O51: row by row, the rows that leave the image taken together. -/
theorem onlyClaimsChangeTheImage : Obligations.OnlyClaimsChangeTheImage := by
  intro c s t he
  have kept (hc : changesImage c = false) : t.image = s.image := by
    obtain ⟨t', he', ht'⟩ := exec_image hc s
    rw [he] at he'
    cases he'
    exact ht'
  refine ⟨fun hcommit hinput hswap hcopy hrelease => kept ?_, ?_⟩
  · cases c with
    | commit p => exact absurd rfl (hcommit p)
    | inputUpdate n => exact absurd rfl (hinput n)
    | swapClaim p => exact absurd rfl (hswap p)
    | copyClaim p => exact absurd rfl (hcopy p)
    | resetNRelease rate par => exact absurd rfl (hrelease rate par)
    | _ => rfl
  · cases c with
    | commit p => exact (gen_execCommit he).imp_right fun h => .inl ⟨h, p, .inl rfl⟩
    | swapClaim p => exact (gen_execSwapClaim he).imp_right fun h => .inl ⟨h, p, .inr (.inl rfl)⟩
    | copyClaim p => exact (gen_execCopyClaim he).imp_right fun h => .inl ⟨h, p, .inr (.inr rfl)⟩
    | inputUpdate n => exact .inl (gen_execInputUpdate he)
    | resetNRelease rate par =>
      obtain rfl := Host.Outcome.next.inj he
      exact .inr (.inr ⟨rfl, rate, par, rfl⟩)
    | _ => exact .inl (by rw [kept rfl])

end Sys2Proof.Machine
end

section
/-! PROOFS. Reports: the items a report makes, what a port receives of them, and the commit with its outcome. -/

namespace Sys2Proof.Machine

/-! ### Items placed and sent -/

/-- A count that stays at its highest value, by its value (R120). -/
theorem toNat_satInc (c : Byte) : (satInc c).toNat = min 255 (c.toNat + 1) := by
  unfold satInc
  split
  · next h => subst h; rfl
  · next h =>
    have : c.toNat ≠ 255 := fun e => h (BitVec.eq_of_toNat_eq (by simpa using e))
    have := c.isLt
    rw [BitVec.toNat_add]
    simp
    omega

@[simp] theorem NoticeState.subs_place (ns : NoticeState) (item : Notice) : (ns.place item).subs = ns.subs := by
  unfold NoticeState.place
  split
  · rfl
  · split <;> rfl

@[simp] theorem NoticeState.subs_foldl_place (ns : NoticeState) (items : List Notice) :
    (items.foldl NoticeState.place ns).subs = ns.subs := by
  induction items generalizing ns with
  | nil => rfl
  | cons item items ih => rw [List.foldl_cons, ih, NoticeState.subs_place]

/-- An item that meets no unsent CHANGE of its subscription joins the queue, or is lost (R119). -/
theorem NoticeState.queued_place {ns : NoticeState} {item : Notice} (hsent : item.sent = none)
    (hnew : ∀ x ∈ ns.queue, ¬(x.kind = .change ∧ x.sent = none ∧ x.refId = item.refId)) :
    Queued ns (ns.place item) item := by
  have unmerged : (item.kind = .change && ns.queue.any (Notice.unsentChangeOf item.refId)) = false := by
    rw [Bool.and_eq_false_iff, List.any_eq_false]
    refine .inr fun x hx hu => hnew x hx ?_
    simpa [Notice.unsentChangeOf, and_assoc] using hu
  have entry : item.entry = item := by rw [Notice.entry, ← hsent]
  have place_eq : ns.place item =
      if ns.queue.length < 8 then { ns with queue := ns.queue ++ [item] } else { ns with lost := satInc ns.lost } := by
    rw [NoticeState.place, if_neg (by simp [unmerged])]
    rfl
  refine ⟨NoticeState.subs_place ns item, ?_⟩
  by_cases room : ns.queue.length < 8
  · simp [place_eq, room, entry]
  · simp [place_eq, room, toNat_satInc]

/-- Delivery after the placing of items shows in no entry, count or subscription. -/
theorem Receives.trans_same {a b c : NoticeState} {items : List Notice} (h : Receives a b items)
    (hs : SameNotices b c) : Receives a c items := by
  obtain ⟨hsubs, hlost, hqueue⟩ := h
  obtain ⟨hsubs', hlost', hqueue'⟩ := hs
  exact ⟨hsubs'.trans hsubs, hlost'.trans hlost, hqueue'.trans hqueue⟩

theorem receives_nil {a b : NoticeState} : Receives a b [] ↔ SameNotices a b := Iff.rfl

/-- With its bit at 0, or with no item for it, a port is not told (R117). -/
theorem PortState.notify_nothing (ps : PortState) {enabled : Bool} {items : List Notice}
    (h : enabled = false ∨ items = []) : ps.notify enabled items = ps := by
  unfold PortState.notify
  rcases h with h | h <;> simp [h]

/-- A port is told by the placing of the items and delivery after it. -/
theorem PortState.notify_cons (ps : PortState) {items : List Notice} (h : items ≠ []) :
    ps.notify true items = (ps.modNotice fun ns => items.foldl NoticeState.place ns).deliver true := by
  simp [PortState.notify, h]

/-- A port that is told receives the items in their order (R119). -/
theorem PortState.receives_notify (ps : PortState) (items : List Notice) :
    Receives ps.notice (ps.notify true items).notice items := by
  by_cases h : items = []
  · rw [PortState.notify_nothing ps (.inr h), h, receives_nil]
    exact ⟨rfl, rfl, rfl⟩
  · rw [PortState.notify_cons ps h]
    have placed : Receives ps.notice (ps.modNotice fun ns => items.foldl NoticeState.place ns).notice items :=
      ⟨NoticeState.subs_foldl_place _ _, rfl, rfl⟩
    exact placed.trans_same (PortState.sameNotices_deliver _ _)

/-- What a report tells a port changes its notice slot, its session and its notices alone. -/
theorem PortState.notify_eq (ps : PortState) (enabled : Bool) (items : List Notice) :
    ps.notify enabled items =
      { ps with tx := { ps.tx with slot := (ps.notify enabled items).tx.slot }
                session := (ps.notify enabled items).session, notice := (ps.notify enabled items).notice } := by
  unfold PortState.notify
  split
  · rw [PortState.deliver_eq, PortState.frames_deliver]
    rfl
  · rfl

/-- At a port that is not free nothing is sent. -/
theorem PortState.notify_notFree (ps : PortState) (enabled : Bool) (items : List Notice) (h : ps.session ≠ .idle) :
    ps.notify enabled items = { ps with notice := (ps.notify enabled items).notice } := by
  unfold PortState.notify
  split
  · have stays : (ps.modNotice fun ns => items.foldl NoticeState.place ns).deliver enabled =
        ps.modNotice fun ns => items.foldl NoticeState.place ns := by
      simp [PortState.deliver, PortState.readyToSend, PortState.free, PortState.modNotice, h]
    rw [stays]
    rfl
  · rfl

/-- A single item that meets no unsent CHANGE of its subscription is told as R119 says. -/
theorem PortState.told_notify (ps : PortState) {item : Notice} (hsent : item.sent = none)
    (hnew : ∀ x ∈ ps.notice.queue, ¬(x.kind = .change ∧ x.sent = none ∧ x.refId = item.refId)) :
    Told true ps (ps.notify true [item]) item := by
  obtain ⟨hsubs, hlost, hqueue⟩ := PortState.receives_notify ps [item]
  obtain ⟨-, joined⟩ := NoticeState.queued_place hsent hnew
  unfold Told
  rw [if_pos rfl]
  refine ⟨PortState.notify_eq _ _ _, hsubs, ?_⟩
  rw [hlost, hqueue]
  exact joined

/-- Delivery leaves a port in its session or brings it into NOTIFYING. -/
theorem PortState.session_deliver (ps : PortState) (enabled : Bool) :
    (ps.deliver enabled).session = ps.session ∨ (ps.deliver enabled).session = .notifying := by
  unfold PortState.deliver PortState.send
  split
  · split
    · exact .inl rfl
    · split <;> exact .inr rfl
  · exact .inl rfl

/-! ### The items of a report -/

/-- A report makes no item for a place without a subscription that it reaches. -/
theorem changeItem_eq_none {r : Report} {gen : Gen} {q : Port} {subs : Vector (Option Subscription) 4} {i : Fin 4}
    (h : ∀ sub, subs.get i = some sub → r.reaches q sub = none) : changeItem r gen q subs i = none := by
  unfold changeItem
  cases hs : subs.get i with
  | none => rfl
  | some sub => simp [h sub hs]

theorem changeItem_eq_some {r : Report} {gen : Gen} {q : Port} {subs : Vector (Option Subscription) 4} {i : Fin 4}
    {sub : Subscription} {range : Nat × Nat} (hs : subs.get i = some sub) (hr : r.reaches q sub = some range) :
    changeItem r gen q subs i =
      some { kind := .change, refId := BitVec.ofNat 8 (i.val + 1), area := sub.area, first := range.1,
             last := range.2, gen := gen, cause := r.cause, sent := none } := by
  simp [changeItem, hs, hr]

/-- A report that reaches no subscription of a port makes no item for it. -/
theorem changeItems_eq_nil {r : Report} {gen : Gen} {q : Port} {subs : Vector (Option Subscription) 4}
    (h : ∀ i sub, subs.get i = some sub → r.reaches q sub = none) : changeItems r gen q subs = [] :=
  List.filterMap_eq_nil_iff.mpr fun i _ => changeItem_eq_none (h i)

/-- The one value that a function has on the four places. -/
theorem filterMap_places_single {α : Type} {f : Fin 4 → Option α} {i : Fin 4} {a : α} (hi : f i = some a)
    (hj : ∀ j, j ≠ i → f j = none) : ([0, 1, 2, 3] : List (Fin 4)).filterMap f = [a] := by
  match i, hi, hj with
  | 0, hi, hj => simp [hi, hj 1 (by decide), hj 2 (by decide), hj 3 (by decide)]
  | 1, hi, hj => simp [hi, hj 0 (by decide), hj 2 (by decide), hj 3 (by decide)]
  | 2, hi, hj => simp [hi, hj 0 (by decide), hj 1 (by decide), hj 3 (by decide)]
  | 3, hi, hj => simp [hi, hj 0 (by decide), hj 1 (by decide), hj 2 (by decide)]

/-- The report of one port, read off the part. -/
theorem port_report (s : State) (r : Report) (q : Port) :
    (s.report r).port q =
      (s.port q).notify (s.enabled q) (changeItems r s.image.gen q (s.port q).notice.subs) := by
  simp [State.report]

/-- The live bank's words are those of another image with the same live bank, if no word of that bank differs. -/
theorem Image.enables_congr {im im' : Image} (hl : im'.live = im.live)
    (hw : ∀ i, im'.word (.prm im.live) i = im.word (.prm im.live) i) (q : Port) : im'.enables q = im.enables q := by
  simp only [Image.enables, Image.liveWord, hl, hw]

/-! ### The checks of a commit -/

/-- The consultation of the Hold Table answers the lowest id of the other ports' entries that meet the range. -/
theorem blocking_of_lowestId {holds : List Hold} {p : Port} {area : Area} {first count : Nat} {id : Byte}
    (h1 : 1 ≤ count) (h : LowestId holds (fun h => h.owner ≠ p ∧ h.meets area first count) id) :
    blocking holds p area first (first + count - 1) = some id := by
  obtain ⟨⟨x, hx, ⟨howner, hmeets⟩, hid⟩, hlow⟩ := h
  cases hb : blocking holds p area first (first + count - 1) with
  | none => exact absurd hmeets ((blocking_eq_none h1).mp hb x hx howner)
  | some i =>
    obtain ⟨⟨y, hy, rfl⟩, hle⟩ := lowestId_eq_some hb
    have among (z : Hold) : z ∈ holds.filter (fun h => h.owner ≠ p && h.overlaps area first (first + count - 1)) ↔
        z ∈ holds ∧ z.owner ≠ p ∧ z.meets area first count := by
      simp only [List.mem_filter, Hold.overlaps, Hold.meets, Bool.and_eq_true, decide_eq_true_eq]
      constructor
      · rintro ⟨hz, ho, ⟨ha, hl⟩, hf⟩
        exact ⟨hz, ho, ha, by omega, hf⟩
      · rintro ⟨hz, ho, ha, hl, hf⟩
        exact ⟨hz, ho, ⟨ha, by omega⟩, hf⟩
    obtain ⟨hy, hyo, hym⟩ := (among y).mp hy
    have hle := hle x ((among x).mpr ⟨hx, howner, hmeets⟩)
    have hge := hlow y hy ⟨hyo, hym⟩
    rw [hid] at hle
    exact congrArg some (BitVec.eq_of_toNat_eq (by omega))

theorem commitCheck_stale {im : Image} {r : Region} (holds : List Hold) (p : Port) (first count : Nat)
    (h : r = .prm im.live) : commitCheck im holds p r first count = .stale := if_pos h

theorem commitCheck_ok {im : Image} {holds : List Hold} {p : Port} {r : Region} {first count : Nat}
    (hr : r ≠ .prm im.live) (h1 : 1 ≤ count)
    (hh : ∀ h ∈ holds, h.owner ≠ p → ¬h.meets r.area first count) :
    commitCheck im holds p r first count = .ok := by
  rw [commitCheck, if_neg hr, (blocking_eq_none h1).mpr hh]

theorem commitCheck_held {im : Image} {holds : List Hold} {p : Port} {r : Region} {first count : Nat} {id : Byte}
    (hr : r ≠ .prm im.live) (h1 : 1 ≤ count)
    (hid : LowestId holds (fun h => h.owner ≠ p ∧ h.meets r.area first count) id) :
    commitCheck im holds p r first count = .held id := by
  rw [commitCheck, if_neg hr, blocking_of_lowestId h1 hid]

/-- The checks find nothing, an id, or staleness just as R9 and R10 say. -/
theorem commitCheck_ok_iff {im : Image} {holds : List Hold} {p : Port} {r : Region} {first count : Nat}
    (h1 : 1 ≤ count) :
    commitCheck im holds p r first count = .ok ↔
      ¬(r = .prm im.live ∨ ∃ h ∈ holds, h.owner ≠ p ∧ h.meets r.area first count) := by
  constructor
  · intro hok
    rintro (hr | ⟨h, hh, ho, hm⟩)
    · rw [commitCheck_stale _ _ _ _ hr] at hok
      cases hok
    · exact (blocking_eq_none h1).mp (blocking_of_commitCheck_ok hok) h hh ho hm
  · intro hn
    exact commitCheck_ok (fun hr => hn (.inl hr)) h1 fun h hh ho hm => hn (.inr ⟨h, hh, ho, hm⟩)

/-! ### The commit -/

/-- A COMMIT whose claim stands among the oldest is taken. -/
theorem exec_commit_oldest {p : Port} {s : State} {op : WriteOp} {r : Region} {first count : Nat}
    {before after : List Claim} {later : List (List Claim)} (hlow : s.resetLow = false)
    (ho : Oldest s (.commit p op r first count) before after later)
    (hb : ∀ c ∈ before, Claim.isCommitOf p c = false) :
    exec (.commit p) s =
      .next ({ s with claims := claimsLeft before after later }.takeCommit p op r first count) := by
  have taken := takeClaim_oldest (f := Claim.isCommitOf p) (c := .commit p op r first count) (before := before)
    (after := after) (later := later) (by simp [Claim.isCommitOf]) hb
  simp [exec, execCommit, State.whenReleased_high hlow, show s.claims = _ from ho, taken]

theorem State.takeCommit_ok {s : State} {p : Port} {op : WriteOp} {r : Region} {first count : Nat}
    (h : commitCheck s.image s.holds p r first count = .ok) :
    s.takeCommit p op r first count =
      (s.applyCommit p op r first count).commitDone p .ok (s.applyCommit p op r first count).image.gen 0 := by
  simp [State.takeCommit, h]

theorem State.takeCommit_stale {s : State} {p : Port} (op : WriteOp) {r : Region} {first count : Nat}
    (h : commitCheck s.image s.holds p r first count = .stale) :
    s.takeCommit p op r first count = s.commitDone p .stale 0 0 := by
  simp [State.takeCommit, h]

theorem State.takeCommit_held {s : State} {p : Port} (op : WriteOp) {r : Region} {first count : Nat} {id : Byte}
    (h : commitCheck s.image s.holds p r first count = .held id) :
    s.takeCommit p op r first count = s.commitDone p .held 0 id := by
  simp [State.takeCommit, h]

/-- What a commit that passes the checks leaves, its outcome aside (R11 to R15). -/
theorem State.applyCommit_eq (s : State) (p : Port) (op : WriteOp) (r : Region) (first count : Nat) :
    s.applyCommit p op r first count =
      { s with
        image := (s.applyCommit p op r first count).image, ports := (s.applyCommit p op r first count).ports
        groups := (s.applyCommit p op r first count).groups
        driven := (s.applyCommit p op r first count).driven } := by
  unfold State.applyCommit
  dsimp only
  split <;> rfl

/-- A commit outside OUT leaves the groups and the lines. -/
theorem State.applyCommit_notOut (s : State) (p : Port) (op : WriteOp) {r : Region} (first count : Nat)
    (h : r ≠ .out) :
    (s.applyCommit p op r first count).groups = s.groups ∧ (s.applyCommit p op r first count).driven = s.driven := by
  simp [State.applyCommit, h, State.report]

/-- What a commit that passes the checks tells a port (R15): the notice-enable bits are those of before. -/
theorem port_applyCommit {s : State} (p : Port) (op : WriteOp) {r : Region} (first count : Nat) (q : Port)
    (hr : r ≠ .prm s.image.live) :
    (s.applyCommit p op r first count).port q =
      (s.port q).notify (s.enabled q)
        (changeItems (.commit r.area first (first + count - 1) p) (s.image.gen + 1) q (s.port q).notice.subs) := by
  have bits : ((s.image.commitWords op r first count (s.port p).buffer).bumpGen).enables q = s.image.enables q :=
    Image.enables_congr (by simp) (fun i => by
      rw [Image.word_bumpGen, Image.word_commitWords_outside _ _ _ _ _ _ _ _ (.inl (Ne.symm hr))]) q
  have told (t : State) (hp : t.port q = s.port q)
      (hi : t.image = (s.image.commitWords op r first count (s.port p).buffer).bumpGen) :
      (t.report (.commit r.area first (first + count - 1) p)).port q =
        (s.port q).notify (s.enabled q)
          (changeItems (.commit r.area first (first + count - 1) p) (s.image.gen + 1) q (s.port q).notice.subs) := by
    rw [port_report, State.enabled, hp, hi, bits, Image.gen_bumpGen, Image.gen_commitWords]
    rfl
  unfold State.applyCommit
  dsimp only
  split
  · exact told _ (by simp [State.outputCommit]; rfl) (by simp)
  · exact told _ rfl rfl

/-- A commit that passes the checks, its outcome aside, leaves the committing port but for its notices. -/
theorem port_applyCommit_self {s : State} {p : Port} (op : WriteOp) {r : Region} (first count : Nat)
    (hr : r ≠ .prm s.image.live) (hs : (s.port p).session = .committing) :
    (s.applyCommit p op r first count).port p =
      { s.port p with notice := ((s.applyCommit p op r first count).port p).notice } := by
  rw [port_applyCommit p op first count p hr]
  exact PortState.notify_notFree _ _ _ (by simp [hs])

/-! ### The outcome of a commit -/

/-- A frame formed at a port that is not SENDING and has no FIN in its queue changes the transmitter alone. -/
theorem PortState.form_of_noFin {ps : PortState} (f : TxFrame) (hs : ps.session ≠ .sending) (hq : ps.tx.noFin) :
    ps.form f = { ps with tx := (ps.form f).tx } := by
  have silent (qs : PortState) (oldest : TxFrame) (hqs : qs.session = ps.session) (ho : oldest.origin ≠ .closing) :
      qs.reportSession oldest = qs := by
    unfold PortState.reportSession
    cases h : oldest.origin with
    | reply => rfl
    | segment seq =>
      unfold PortState.startTAck
      cases qs.transfer with
      | none => rfl
      | some t => exact if_neg fun c => hs (hqs ▸ c.1)
    | closing => exact absurd h ho
    | notice => rfl
  unfold PortState.form
  split
  · next oldest rest hqueue =>
    split
    · rw [silent { ps with tx := { ps.tx with queue := rest ++ [f] } } oldest rfl (hq oldest (by simp [hqueue])),
        PortState.pump_eq]
    · rw [PortState.pump_eq]
  · rw [PortState.pump_eq]

/-- The FIN of a committing port: its frame joins, the transfer is closing, and no timer runs (R102, R103). -/
theorem PortState.finish_committing {ps : PortState} {t : Transfer} (outcome : FinOutcome) (gen : Gen) (detail : Byte)
    (hs : ps.session = .committing) (hq : ps.tx.noFin) :
    (ps.finish t outcome gen detail).tx.frames = ps.tx.joined (finFrame t.tag outcome.byte gen detail) ∧
      ps.finish t outcome gen detail =
        { ps with tx := (ps.finish t outcome gen detail).tx, tSeg := none, tAck := none
                  transfer := some { t with closing := true } } := by
  refine ⟨PortState.frames_form _ _, ?_⟩
  exact PortState.form_of_noFin
    (ps := { ps with transfer := some { t with closing := true }, tSeg := none, tAck := none }) _ (by simp [hs]) hq

/-- A FIN touches no notice. -/
theorem PortState.notice_finish (ps : PortState) (t : Transfer) (outcome : FinOutcome) (gen : Gen) (detail : Byte) :
    (ps.finish t outcome gen detail).notice = ps.notice := by
  unfold PortState.finish PortState.form
  split
  · split
    · rw [PortState.pump_eq, PortState.reportSession_eq]
    · rw [PortState.pump_eq]
  · rw [PortState.pump_eq]

/-- The outcome of a commit concerns its port alone. -/
theorem onlyPort_commitDone (s : State) (p : Port) (outcome : FinOutcome) (gen : Gen) (detail : Byte) :
    OnlyPort s (s.commitDone p outcome gen detail) p := by
  by_cases hs : (s.port p).session = .committing
  · cases ht : (s.port p).transfer with
    | some t =>
      rw [State.commitDone_open _ _ _ hs ht]
      exact ⟨rfl, fun q hq => port_setPort_other _ _ _ _ hq⟩
    | none =>
      rw [State.commitDone_reset _ _ _ hs ht]
      refine ⟨rfl, fun q hq => ?_⟩
      rw [State.judge, port_modPort_other _ _ _ _ hq, port_setPort_other _ _ _ _ hq]
  · rw [State.commitDone_other _ _ _ hs]
    exact ⟨rfl, fun _ _ => rfl⟩

/-- The outcome of a commit makes no item. -/
theorem sameNotices_commitDone (s : State) (p : Port) (outcome : FinOutcome) (gen : Gen) (detail : Byte) (q : Port) :
    SameNotices (s.port q).notice ((s.commitDone p outcome gen detail).port q).notice := by
  by_cases hq : q = p
  · subst hq
    by_cases hs : (s.port q).session = .committing
    · cases ht : (s.port q).transfer with
      | some t =>
        rw [State.commitDone_open _ _ _ hs ht, port_setPort_same, PortState.notice_finish]
        exact ⟨rfl, rfl, rfl⟩
      | none =>
        rw [State.commitDone_reset _ _ _ hs ht, State.judge, port_modPort_same, port_setPort_same]
        exact PortState.sameNotices_deliver { s.port q with buffer := [], session := .idle } _
    · rw [State.commitDone_other _ _ _ hs]
      exact ⟨rfl, rfl, rfl⟩
  · rw [(onlyPort_commitDone s p outcome gen detail).2 q hq]
    exact ⟨rfl, rfl, rfl⟩

/-- A port that was reset before its commit was taken: at rest with nothing staged, its record and its frames as they
were but for what delivery sends (R109). -/
theorem port_commitDone_reset {s : State} {p : Port} (outcome : FinOutcome) (gen : Gen) (detail : Byte)
    (hs : (s.port p).session = .committing) (ht : (s.port p).transfer = none) :
    let b := (s.commitDone p outcome gen detail).port p
    b.buffer = [] ∧ b.transfer = none ∧ b.record = (s.port p).record ∧
      (b.session = .idle ∨ b.session = .notifying) ∧ b.tx.frames = (s.port p).tx.frames := by
  rw [State.commitDone_reset _ _ _ hs ht, State.judge, port_modPort_same, port_setPort_same]
  refine ⟨?_, ?_, ?_, PortState.session_deliver _ _, ?_⟩
  · rw [PortState.deliver_eq]
  · rw [PortState.deliver_eq]; exact ht
  · rw [PortState.deliver_eq]
  · rw [PortState.frames_deliver]; rfl

/-! ### COMMIT -/

/-- All that a commit that passes the checks may change, the claim aside. -/
theorem State.takeCommit_frame {s : State} {p : Port} {op : WriteOp} {r : Region} {first count : Nat}
    (hok : commitCheck s.image s.holds p r first count = .ok) :
    ∃ image ports groups driven, s.takeCommit p op r first count =
      { s with image := image, ports := ports, groups := groups, driven := driven } := by
  rw [State.takeCommit_ok hok, (onlyPort_commitDone ..).1, State.applyCommit_eq]
  exact ⟨_, _, _, _, rfl⟩

theorem State.takeCommit_notOut {s : State} {p : Port} {op : WriteOp} {r : Region} {first count : Nat}
    (hok : commitCheck s.image s.holds p r first count = .ok) (h : r ≠ .out) :
    (s.takeCommit p op r first count).groups = s.groups ∧
      (s.takeCommit p op r first count).driven = s.driven := by
  rw [State.takeCommit_ok hok, (onlyPort_commitDone ..).1]
  exact State.applyCommit_notOut s p op first count h

/-- A port that does not commit is told of the commit, and no more. -/
theorem port_takeCommit_other {s : State} {p q : Port} {op : WriteOp} {r : Region} {first count : Nat}
    (hok : commitCheck s.image s.holds p r first count = .ok) (hr : r ≠ .prm s.image.live) (hq : q ≠ p) :
    (s.takeCommit p op r first count).port q =
      (s.port q).notify (s.enabled q)
        (changeItems (.commit r.area first (first + count - 1) p) (s.image.gen + 1) q (s.port q).notice.subs) := by
  rw [State.takeCommit_ok hok, (onlyPort_commitDone ..).2 q hq, port_applyCommit p op first count q hr]

/-- The image of a commit that passes the checks: the words of its range, and the generation. -/
theorem image_takeCommit_ok {s : State} {p : Port} {op : WriteOp} {r : Region} {first count : Nat}
    (hok : commitCheck s.image s.holds p r first count = .ok) :
    (s.takeCommit p op r first count).image =
      (s.image.commitWords op r first count (s.port p).buffer).bumpGen := by
  rw [image_takeCommit, if_pos hok]

/-- The committing port whose transfer is open: told of the commit, it forms FIN OK with the new generation. -/
theorem port_takeCommit_open {s : State} {p : Port} {op : WriteOp} {r : Region} {first count : Nat} {t : Transfer}
    (hok : commitCheck s.image s.holds p r first count = .ok) (hr : r ≠ .prm s.image.live)
    (hs : (s.port p).session = .committing) (ht : (s.port p).transfer = some t) (hq : (s.port p).tx.noFin) :
    let b := (s.takeCommit p op r first count).port p
    b.tx.frames = (s.port p).tx.joined (finFrame t.tag 0 (s.image.gen + 1) 0) ∧
      b = { s.port p with tx := b.tx, tSeg := none, tAck := none, transfer := some { t with closing := true }
                          notice := b.notice } := by
  have told := port_applyCommit_self (p := p) op first count hr hs
  generalize ((s.applyCommit p op r first count).port p).notice = notice at told
  have hs' : ((s.applyCommit p op r first count).port p).session = .committing := by rw [told]; exact hs
  have ht' : ((s.applyCommit p op r first count).port p).transfer = some t := by rw [told]; exact ht
  have gen : (s.applyCommit p op r first count).image.gen = s.image.gen + 1 := by simp [image_applyCommit]
  obtain ⟨hframes, hrest⟩ := PortState.finish_committing (ps := { s.port p with notice := notice }) (t := t) .ok
    (s.image.gen + 1) 0 hs hq
  rw [State.takeCommit_ok hok, State.commitDone_open _ _ _ hs' ht', port_setPort_same, told, gen]
  exact ⟨hframes, by rw [hrest]⟩

/-- Settles O41: the frame, the image word by word, the committing port and the others. -/
theorem commitWritesItsWords : Obligations.CommitWritesItsWords := by
  intro p s op region first count before after later x hlow ho hb hr h1 hsize hh hs hx hxc hq
  have hok : commitCheck s.image s.holds p region first count = .ok := commitCheck_ok hr h1 hh
  let s1 : State := { s with claims := claimsLeft before after later }
  obtain ⟨image, ports, groups, driven, frame⟩ := State.takeCommit_frame (s := s1) (op := op) hok
  have himage := image_takeCommit_ok (s := s1) (op := op) hok
  obtain ⟨hframes, hport⟩ := port_takeCommit_open (s := s1) (op := op) hok hr hs hx hq
  refine ⟨_, exec_commit_oldest hlow ho hb, by rw [frame], State.takeCommit_notOut hok, by rw [frame], ?_, ?_, ?_, ?_, ?_,
    hframes, hport, ?_⟩
  · rw [himage]; simp [s1]
  · rw [himage]; simp [s1]
  · intro r i hout
    rw [himage, Image.word_bumpGen]
    exact Image.word_commitWords_outside _ _ _ _ _ _ _ _ hout
  · rintro rfl j hj
    rw [himage, Image.word_bumpGen]
    exact Image.word_commitWords_write _ _ _ hsize hj
  · rintro rfl j hj b hb16
    rw [himage, Image.word_bumpGen, Image.word_commitWords_mwrite _ _ _ hsize hj]
    exact getLsbD_maskWord _ _ _ b hb16
  · intro q hqp
    rw [port_takeCommit_other (s := s1) hok hr hqp]
    exact PortState.notify_eq _ _ _

/-- The outcome of a commit at a port whose transfer is open changes that port alone, and there forms the FIN. -/
theorem commitDone_open_effect {s : State} {p : Port} {t : Transfer} (outcome : FinOutcome) (gen : Gen) (detail : Byte)
    (hs : (s.port p).session = .committing) (ht : (s.port p).transfer = some t) (hq : (s.port p).tx.noFin) :
    let b := (s.commitDone p outcome gen detail).port p
    OnlyPort s (s.commitDone p outcome gen detail) p ∧
      b.tx.frames = (s.port p).tx.joined (finFrame t.tag outcome.byte gen detail) ∧
      b = { s.port p with tx := b.tx, tSeg := none, tAck := none, transfer := some { t with closing := true } } := by
  refine ⟨onlyPort_commitDone .., ?_⟩
  rw [State.commitDone_open _ _ _ hs ht, port_setPort_same]
  exact PortState.finish_committing outcome gen detail hs hq

/-- Settles O42: with the checks' answer the commit goes straight to its outcome. -/
theorem commitIsRefused : Obligations.CommitIsRefused := by
  intro p s op region first count before after later x hlow ho hb h1 hs hx hxc hq
  have taken := exec_commit_oldest hlow ho hb
  let s1 : State := { s with claims := claimsLeft before after later }
  refine ⟨fun hr => ⟨s1.commitDone p .stale 0 0, ?_, ?_⟩, fun hr id hid => ⟨s1.commitDone p .held 0 id, ?_, ?_⟩⟩
  · exact taken.trans (congrArg _ (State.takeCommit_stale _ (commitCheck_stale _ _ _ _ hr)))
  · obtain ⟨⟨frame, others⟩, hframes, hport⟩ := commitDone_open_effect (s := s1) .stale 0 0 hs hx hq
    exact ⟨by rw [frame], by rw [frame], others, hframes, hport⟩
  · exact taken.trans (congrArg _ (State.takeCommit_held _ (commitCheck_held hr h1 hid)))
  · obtain ⟨⟨frame, others⟩, hframes, hport⟩ := commitDone_open_effect (s := s1) .held 0 id hs hx hq
    exact ⟨by rw [frame], by rw [frame], others, hframes, hport⟩

/-- A commit that the checks refuse goes straight to its outcome. -/
theorem State.takeCommit_refused {s : State} {p : Port} (op : WriteOp) {r : Region} {first count : Nat}
    (h : commitCheck s.image s.holds p r first count ≠ .ok) :
    ∃ outcome detail, s.takeCommit p op r first count = s.commitDone p outcome 0 detail := by
  cases hc : commitCheck s.image s.holds p r first count with
  | ok => exact absurd hc h
  | held id => exact ⟨_, _, State.takeCommit_held op hc⟩
  | stale => exact ⟨_, _, State.takeCommit_stale op hc⟩

/-- Whatever the checks say, a commit of a port that was reset leaves it at rest, with no FIN (R13, R109). -/
theorem port_takeCommit_reset {s : State} {p : Port} (op : WriteOp) (r : Region) (first count : Nat)
    (hs : (s.port p).session = .committing) (ht : (s.port p).transfer = none) :
    let b := (s.takeCommit p op r first count).port p
    b.buffer = [] ∧ b.transfer = none ∧ b.record = (s.port p).record ∧
      (b.session = .idle ∨ b.session = .notifying) ∧ b.tx.frames = (s.port p).tx.frames := by
  by_cases hok : commitCheck s.image s.holds p r first count = .ok
  · have hr : r ≠ .prm s.image.live := fun hr => by
      rw [commitCheck_stale _ _ _ _ hr] at hok
      cases hok
    have told := port_applyCommit_self (p := p) op first count hr hs
    generalize ((s.applyCommit p op r first count).port p).notice = notice at told
    have done := port_commitDone_reset (s := s.applyCommit p op r first count) (p := p) .ok
      (s.applyCommit p op r first count).image.gen 0 (by rw [told]; exact hs) (by rw [told]; exact ht)
    rw [State.takeCommit_ok hok]
    rw [told] at done
    exact done
  · obtain ⟨outcome, detail, he⟩ := State.takeCommit_refused op hok
    rw [he]
    exact port_commitDone_reset outcome 0 detail hs ht

theorem claims_takeCommit (s : State) (p : Port) (op : WriteOp) (r : Region) (first count : Nat) :
    (s.takeCommit p op r first count).claims = s.claims := by
  by_cases hok : commitCheck s.image s.holds p r first count = .ok
  · obtain ⟨image, ports, groups, driven, frame⟩ := State.takeCommit_frame (op := op) hok
    rw [frame]
  · obtain ⟨outcome, detail, he⟩ := State.takeCommit_refused op hok
    rw [he, (onlyPort_commitDone ..).1]

/-- Settles O43: carried out or refused by the checks, and the port at rest in either case. -/
theorem commitOfAResetPortIsSilent : Obligations.CommitOfAResetPortIsSilent := by
  intro p s op region first count before after later hlow ho hb h1 hsize hs hx refused
  let s1 : State := { s with claims := claimsLeft before after later }
  have check : commitCheck s1.image s1.holds p region first count = .ok ↔ ¬refused := commitCheck_ok_iff h1
  obtain ⟨hbuffer, htransfer, hrecord, hsession, hframes⟩ :=
    port_takeCommit_reset (s := s1) (p := p) op region first count hs hx
  refine ⟨s1.takeCommit p op region first count, exec_commit_oldest hlow ho hb, ?_, fun hn => ?_, fun hr => ?_, hbuffer,
    htransfer, hrecord, hsession, fun f hf _ => hframes ▸ hf⟩
  · rw [claims_takeCommit]
  · rw [image_takeCommit_ok (check.mpr hn)]
    refine ⟨by simp [s1], fun r i hout => ?_, ?_, ?_⟩
    · rw [Image.word_bumpGen]
      exact Image.word_commitWords_outside _ _ _ _ _ _ _ _ hout
    · rintro rfl j hj
      rw [Image.word_bumpGen]
      exact Image.word_commitWords_write _ _ _ hsize hj
    · rintro rfl j hj
      rw [Image.word_bumpGen]
      exact Image.word_commitWords_mwrite _ _ _ hsize hj
  · obtain ⟨outcome, detail, he⟩ := State.takeCommit_refused (s := s1) op fun hok => check.mp hok hr
    obtain ⟨frame, others⟩ := onlyPort_commitDone s1 p outcome 0 detail
    rw [he]
    exact ⟨by rw [frame], others⟩

/-- The range of a commit and a subscription that it reaches have in common what R115 says. -/
theorem reaches_commit_eq_none {area : Area} {first last : Nat} {p q : Port} {sub : Subscription}
    (h : ¬(sub.area = area ∧ first ≤ sub.last ∧ sub.first ≤ last ∧ (area = .prm → sub.edit = true) ∧
      (sub.noself = false ∨ q ≠ p))) : (Report.commit area first last p).reaches q sub = none := if_neg h

theorem reaches_commit_eq_some {area : Area} {first last : Nat} {p q : Port} {sub : Subscription}
    (h : sub.area = area ∧ first ≤ sub.last ∧ sub.first ≤ last ∧ (area = .prm → sub.edit = true) ∧
      (sub.noself = false ∨ q ≠ p)) :
    (Report.commit area first last p).reaches q sub = some (max first sub.first, min last sub.last) := if_pos h

/-- The notices of a port after a commit that passes the checks, the committing port among them (R15). -/
theorem receives_takeCommit {s : State} {p : Port} {op : WriteOp} {r : Region} {first count : Nat} (q : Port)
    (hok : commitCheck s.image s.holds p r first count = .ok) (hr : r ≠ .prm s.image.live) :
    (s.enabled q = true → Receives (s.port q).notice ((s.takeCommit p op r first count).port q).notice
      (changeItems (.commit r.area first (first + count - 1) p) (s.image.gen + 1) q (s.port q).notice.subs)) ∧
    (s.enabled q = false → SameNotices (s.port q).notice ((s.takeCommit p op r first count).port q).notice) := by
  have after := sameNotices_commitDone (s.applyCommit p op r first count) p .ok
    (s.applyCommit p op r first count).image.gen 0 q
  have told := port_applyCommit p op first count q hr
  rw [State.takeCommit_ok hok]
  rw [told] at after
  refine ⟨fun he => ?_, fun he => ?_⟩
  · rw [he] at after
    exact (PortState.receives_notify _ _).trans_same after
  · rwa [PortState.notify_nothing _ (.inl he)] at after

/-- Settles O44: what each port receives, the ports without an item, a single item, and NOSELF at the committing port. -/
theorem commitIsReported : Obligations.CommitIsReported := by
  intro p s op region first count before after later hlow ho hb hr h1 hh reached
  let s1 : State := { s with claims := claimsLeft before after later }
  have hok : commitCheck s1.image s1.holds p region first count = .ok := commitCheck_ok hr h1 hh
  have notices q := receives_takeCommit (s := s1) (op := op) q hok hr
  have other q (hq : q ≠ p) := port_takeCommit_other (s := s1) (op := op) hok hr hq
  refine ⟨s1.takeCommit p op region first count, exec_commit_oldest hlow ho hb, fun q he => ?_, (notices p).2,
    fun q hq hn => ?_, fun q i sub hq he hsub hreached hother hnew => ?_, fun hself => ?_⟩
  · refine (congrArg (Receives _ _) (List.filterMap_congr fun i _ => ?_)).mp ((notices q).1 he)
    change changeItem _ _ q (s.port q).notice.subs i = _
    cases hsub : (s.port q).notice.subs.get i with
    | none => exact changeItem_eq_none fun sub h => by rw [hsub] at h; cases h
    | some sub =>
      dsimp only
      split
      · next hc =>
        rw [changeItem_eq_some hsub (reaches_commit_eq_some hc), hc.1]
        rfl
      · next hc =>
        refine changeItem_eq_none fun sub' h => ?_
        rw [hsub] at h
        cases h
        exact reaches_commit_eq_none hc
  · rw [other q hq, PortState.notify_nothing]
    · rfl
    · refine hn.imp_right fun hnone => changeItems_eq_nil fun i sub hsub => reaches_commit_eq_none ?_
      rintro ⟨harea, hfirst, hlast, hedit, -⟩
      exact hnone i sub hsub ⟨harea, hfirst, hlast, hedit⟩
  · obtain ⟨harea, hfirst, hlast, hedit⟩ := hreached
    have items : changeItems (.commit region.area first (first + count - 1) p) (s.image.gen + 1) q
        (s.port q).notice.subs = [_] :=
      filterMap_places_single
        (changeItem_eq_some hsub (reaches_commit_eq_some ⟨harea, hfirst, hlast, hedit, .inr hq⟩))
        fun j hj => changeItem_eq_none fun sub2 hsub2 => reaches_commit_eq_none
          fun ⟨ha, hf, hl, he, _⟩ => hother j sub2 hj hsub2 ⟨ha, hf, hl, he⟩
    rw [other q hq]
    change Told true (s.port q)
      ((s.port q).notify (s.enabled q) (changeItems _ (s.image.gen + 1) q (s.port q).notice.subs)) _
    rw [he, items, harea]
    exact PortState.told_notify _ rfl hnew
  · have silent : changeItems (.commit region.area first (first + count - 1) p) (s.image.gen + 1) p
        (s.port p).notice.subs = [] := by
      refine changeItems_eq_nil fun i sub hsub => reaches_commit_eq_none ?_
      rintro ⟨harea, hfirst, hlast, hedit, hnoself | hne⟩
      · have := hself i sub hsub ⟨harea, hfirst, hlast, hedit⟩
        rw [hnoself] at this
        cases this
      · exact hne rfl
    cases he : s.enabled p with
    | true =>
      obtain ⟨-, hlost, hqueue⟩ := silent ▸ (notices p).1 he
      exact ⟨hqueue, hlost⟩
    | false =>
      obtain ⟨-, hlost, hqueue⟩ := (notices p).2 he
      exact ⟨hqueue, hlost⟩

end Sys2Proof.Machine
end

section
/-! PROOFS. INPUT_UPDATE and SNAPSHOT: one bit of IN, and the copy of a range. -/

namespace Sys2Proof.Machine

/-! ### One bit of IN -/

/-- A word with one bit set. -/
theorem getLsbD_bit (k : Nat) {j : Nat} (hj : j < 16) : (((1 <<< k : Nat) : Word)).getLsbD j = decide (k = j) := by
  rw [BitVec.natCast_eq_ofNat, BitVec.getLsbD_ofNat, Nat.one_shiftLeft, Nat.testBit_two_pow]
  simp [hj]

/-- A word whose bit `k` takes a level. -/
theorem getLsbD_setBit (old : Word) (k : Nat) {j : Nat} (hj : j < 16) (level : Bool) :
    (if level then old ||| ((1 <<< k : Nat) : Word) else old &&& ~~~((1 <<< k : Nat) : Word)).getLsbD j =
      if j = k then level else old.getLsbD j := by
  cases level with
  | true =>
    rw [if_pos rfl, BitVec.getLsbD_or, getLsbD_bit k hj]
    by_cases h : j = k
    · simp [h]
    · simp [h, Ne.symm h]
  | false =>
    rw [if_neg (by decide), BitVec.getLsbD_and, BitVec.getLsbD_not, getLsbD_bit k hj]
    by_cases h : j = k
    · simp [h]
    · simp [h, Ne.symm h, hj]

/-- The update of a line sets its bit of IN and no other (R2, R20). -/
theorem Image.inputBit_setInput (im : Image) (n m : Line) (level : Bool) :
    (im.setInput n level).inputBit m = if m = n then level else im.inputBit m := by
  have hm : m.val % 16 < 16 := Nat.mod_lt _ (by decide)
  have hw : n.val / 16 < Region.inp.area.size := by
    show n.val / 16 < 2
    omega
  have same : m = n ↔ m.val / 16 = n.val / 16 ∧ m.val % 16 = n.val % 16 := by
    rw [Fin.ext_iff]
    omega
  unfold Image.setInput Image.inputBit
  dsimp only
  rw [Image.word_writeWord]
  by_cases hword : m.val / 16 = n.val / 16
  · rw [if_pos ⟨rfl, hword, hw⟩, getLsbD_setBit _ _ hm, ← hword]
    simp only [same, hword, true_and]
  · rw [if_neg fun h => hword h.2.1, if_neg fun h => hword (same.mp h).1]

theorem Image.word_setInput (im : Image) (n : Line) (level : Bool) {r : Region} (i : Nat) (hr : r ≠ .inp) :
    (im.setInput n level).word r i = im.word r i := by
  unfold Image.setInput
  dsimp only
  rw [Image.word_writeWord, if_neg fun h => hr h.1]

theorem live_setInput (im : Image) (n : Line) (level : Bool) : (im.setInput n level).live = im.live := by
  simp [Image.setInput]

/-! ### INPUT_UPDATE -/

@[simp] theorem claims_report (s : State) (r : Report) : (s.report r).claims = s.claims := rfl

theorem State.handOver_eq (s : State) (cs : List Claim) : s.handOver cs = { s with claims := (s.handOver cs).claims } := by
  unfold State.handOver
  split <;> rfl

/-- An INPUT_UPDATE whose claim stands among the oldest is taken. -/
theorem exec_inputUpdate_oldest {n : Line} {level : Bool} {s : State} {before after : List Claim}
    {later : List (List Claim)} (hlow : s.resetLow = false) (ho : Oldest s (.inputUpdate n level) before after later)
    (hb : ∀ c ∈ before, Claim.isInputOf n c = false) :
    exec (.inputUpdate n) s =
      .next (({ s with claims := claimsLeft before after later, image := s.image.setInput n level }.report
        (.input (n.val / 16))).applyLine n ((s.line n).updateTaken n)) := by
  have taken := takeClaim_oldest (f := Claim.isInputOf n) (c := .inputUpdate n level) (before := before)
    (after := after) (later := later) (by simp [Claim.isInputOf]) hb
  simp only [exec, execInputUpdate, State.whenReleased_high hlow, show s.claims = _ from ho, taken]
  rfl

/-- What an input update tells a port (R138): the notice-enable bits and the generation are those of before. -/
theorem port_report_input {s : State} (n : Line) (level : Bool) (left : List (List Claim)) (word : Nat) (q : Port) :
    ({ s with claims := left, image := s.image.setInput n level }.report (.input word)).port q =
      (s.port q).notify (s.enabled q) (changeItems (.input word) s.image.gen q (s.port q).notice.subs) := by
  have bits : (s.image.setInput n level).enables q = s.image.enables q :=
    Image.enables_congr (live_setInput ..) (fun i => Image.word_setInput _ _ _ _ (by simp)) q
  rw [port_report]
  simp only [State.enabled, bits, gen_setInput]
  rfl

theorem reaches_input_eq_some {word : Nat} {q : Port} {sub : Subscription}
    (h : sub.area = .inp ∧ sub.first ≤ word ∧ word ≤ sub.last) :
    (Report.input word).reaches q sub = some (word, word) := if_pos h

theorem reaches_input_eq_none {word : Nat} {q : Port} {sub : Subscription}
    (h : ¬(sub.area = .inp ∧ sub.first ≤ word ∧ word ≤ sub.last)) : (Report.input word).reaches q sub = none := if_neg h

/-- Settles O39: the frame, the image, the line and its claim, then what each port receives. -/
theorem inputUpdateWritesItsBit : Obligations.InputUpdateWritesItsBit := by
  intro n level s before after later hlow ho hb
  let s1 : State := { s with claims := claimsLeft before after later, image := s.image.setInput n level }
  have ports q : ((s1.report (.input (n.val / 16))).applyLine n ((s.line n).updateTaken n)).port q = _ :=
    (port_handOver ..).trans (port_report_input n level (claimsLeft before after later) (n.val / 16) q)
  refine ⟨_, exec_inputUpdate_oldest hlow ho hb, ?_, ?_, ?_, ?_, ?_, ?_, ?_, ?_, ?_, fun q => ⟨?_, ?_, ?_, ?_⟩⟩
  · rw [State.applyLine, State.handOver_eq]
    rfl
  · simp [Image.inputBit_setInput]
  · intro m hm
    simp [Image.inputBit_setInput, hm]
  · intro r i hr
    simp [Image.word_setInput _ _ _ _ hr]
  · simp [gen_setInput]
  · simp [live_setInput]
  · intro m hm
    rw [State.applyLine, line_handOver, line_setLine_other _ _ _ _ hm]
    rfl
  · intro hu
    simp [State.applyLine, LineFilter.updateTaken, hu, claims_handOver]
  · intro hu
    simp [State.applyLine, LineFilter.updateTaken, hu, claims_handOver]
  · intro he
    rw [ports, he]
    refine (congrArg (Receives _ _) (List.filterMap_congr fun i _ => ?_)).mp (PortState.receives_notify _ _)
    cases hsub : (s.port q).notice.subs.get i with
    | none => exact changeItem_eq_none fun sub h => by rw [hsub] at h; cases h
    | some sub =>
      dsimp only
      split
      · next hc =>
        rw [changeItem_eq_some hsub (reaches_input_eq_some hc), hc.1]
        rfl
      · next hc =>
        refine changeItem_eq_none fun sub' h => ?_
        rw [hsub] at h
        cases h
        exact reaches_input_eq_none hc
  · rw [ports]
    exact PortState.notify_eq _ _ _
  · intro hn
    rw [ports, PortState.notify_nothing]
    exact hn.imp_right fun hnone => changeItems_eq_nil fun i sub hsub => reaches_input_eq_none (hnone i sub hsub)
  · intro i sub he hsub harea hfirst hlast hother hnew
    have items : changeItems (.input (n.val / 16)) s.image.gen q (s.port q).notice.subs = [_] :=
      filterMap_places_single (changeItem_eq_some hsub (reaches_input_eq_some ⟨harea, hfirst, hlast⟩))
        fun j hj => changeItem_eq_none fun sub2 hsub2 => reaches_input_eq_none fun h => hother j sub2 hj hsub2 h.1
    rw [ports, he, items, harea]
    exact PortState.told_notify _ rfl hnew

/-! ### The words of DIA -/

/-- The high word of the generation. -/
theorem toNat_diaWord_2 (s : State) : (s.diaWord 2).toNat = s.image.gen.toNat / 65536 := by
  have := s.image.gen.isLt
  simp [State.diaWord, Nat.shiftRight_eq_div_pow]
  omega

/-- The low word of the generation. -/
theorem toNat_diaWord_3 (s : State) : (s.diaWord 3).toNat = s.image.gen.toNat % 65536 := by
  simp [State.diaWord]

theorem diaWord_4 (s : State) : s.diaWord 4 = if s.image.live = .bank0 then 0 else 1 := by
  cases h : s.image.live <;> simp [State.diaWord, h, Bank.toNat]

theorem toNat_diaWord_6 (s : State) : (s.diaWord 6).toNat = s.rateCode.toNat := by
  have := s.rateCode.isLt
  simp [State.diaWord]
  omega

theorem diaWord_group (s : State) (g : Group) : s.diaWord (8 + g.val) = (s.group g).mode.word := by
  have h (k : Nat) (hk : k < 8) : 8 + g.val ≠ k := by omega
  have h16 : 8 + g.val < 16 := by omega
  simp [State.diaWord, h, h16]

theorem diaWord_counter (s : State) (q : Port) {i k : Nat} (hk : k < 5) (hi : i = 16 + 5 * q.val + k) :
    s.diaWord i = (s.port q).counters.word k := by
  subst hi
  have h (j : Nat) (hj : j < 8) : 16 + 5 * q.val + k ≠ j := by omega
  have h16 : ¬16 + 5 * q.val + k < 16 := by omega
  have h36 : 16 + 5 * q.val + k < 36 := by omega
  have hq : (16 + 5 * q.val + k - 16) / 5 = q.val := by omega
  have hr : (16 + 5 * q.val + k - 16) % 5 = k := by omega
  simp [State.diaWord, h, h16, h36, hq, hr]

theorem diaWord_lost (s : State) (q : Port) : (s.diaWord (36 + q.val)).toNat = (s.port q).notice.lost.toNat := by
  have h (j : Nat) (hj : j < 8) : 36 + q.val ≠ j := by omega
  have h16 : ¬36 + q.val < 16 := by omega
  have h36 : ¬36 + q.val < 36 := by omega
  have h40 : 36 + q.val < 40 := by omega
  have := (s.port q).notice.lost.isLt
  simp [State.diaWord, h, h16, h36, h40]
  omega

/-! ### SNAPSHOT -/

/-- Beginning a frame lengthens no queue. -/
theorem PortState.length_queue_pump (ps : PortState) : ps.pump.tx.queue.length ≤ ps.tx.queue.length := by
  unfold PortState.pump
  split
  · exact Nat.le_refl _
  · split
    · next hq => simp [hq, Transmitter.start]
    · split
      · exact Nat.le_refl _
      · exact Nat.le_refl _

/-- A frame formed where the queue has room joins it, and the transmitter alone changes. -/
theorem PortState.form_room_effect {ps : PortState} (f : TxFrame) (h : ps.tx.queue.length < 4) :
    (ps.form f).tx.frames = ps.tx.frames ++ [f] ∧ (ps.form f).tx.queue.length ≤ ps.tx.queue.length + 1 ∧
      ps.form f = { ps with tx := (ps.form f).tx } := by
  refine ⟨?_, ?_, ?_⟩
  · rw [PortState.frames_form]
    simp [Transmitter.joined, Transmitter.frames, h]
  · rw [PortState.form_room ps f h]
    refine (PortState.length_queue_pump _).trans ?_
    simp
  · rw [PortState.form_room ps f h, PortState.pump_eq]

/-- The port that takes its snapshot forms ACCEPT and DAT 0 (R90). -/
theorem PortState.takeSnapshot_effect {ps : PortState} (t : Transfer) (gen : Gen) (words : List Word)
    (h : ps.tx.queue.length ≤ 2) :
    let t' := { t with snapGen := some gen }
    (ps.takeSnapshot t gen words).tx.frames =
        ps.tx.frames ++ [rspFrame t.request 0x00 t'.acceptDetail, datFrame t' words 0] ∧
      ps.takeSnapshot t gen words =
        { ps with tx := (ps.takeSnapshot t gen words).tx, buffer := words, transfer := some t' } := by
  intro t'
  obtain ⟨hframes, hlength, hrest⟩ := PortState.form_room_effect (ps := { ps with transfer := some t', buffer := words })
    (rspFrame t.request 0x00 t'.acceptDetail) (by show ps.tx.queue.length < 4; omega)
  generalize hps : { ps with transfer := some t', buffer := words }.form (rspFrame t.request 0x00 t'.acceptDetail) = qs
    at hframes hlength hrest
  have two : ps.takeSnapshot t gen words = qs.form (datFrame t' words 0) := by rw [← hps]; rfl
  obtain ⟨hframes', -, hrest'⟩ := PortState.form_room_effect (ps := qs) (datFrame t' words 0)
    (Nat.lt_of_le_of_lt hlength (by show ps.tx.queue.length + 1 < 4; omega))
  rw [two]
  refine ⟨by rw [hframes', hframes]; simp, ?_⟩
  rw [hrest', hrest]

/-- The first segment of a read with its whole range in the slots (R97). -/
theorem datFrame_zero (t : Transfer) (words : List Word) (h : words.length = t.count) :
    datFrame t words 0 = readFrame t.tag 0 words := by
  have first : segmentWords t words 0 = (words.drop (32 * 0)).take 32 := by
    apply List.ext_getElem
    · simp [segmentWords, segmentUnits, TransferOp.segmentSize, h]
    · intro i h1 h2
      have hi : i < words.length := by simp at h2; omega
      simp [segmentWords, slotWord, hi]
  unfold datFrame readFrame
  rw [first]

/-- A SNAPSHOT whose claim stands among the oldest is taken. -/
theorem exec_snapshot_oldest {p : Port} {s : State} {area : Area} {edit : Bool} {first count : Nat}
    {before after : List Claim} {later : List (List Claim)} {t : Transfer} (hlow : s.resetLow = false)
    (ho : Oldest s (.snapshot p area edit first count) before after later)
    (hb : ∀ c ∈ before, Claim.isSnapshotOf p c = false) (hs : (s.port p).session = .sending)
    (ht : (s.port p).transfer = some t) :
    exec (.snapshot p) s =
      .next ({ s with claims := claimsLeft before after later }.setPort p
        ((s.port p).takeSnapshot t s.image.gen (s.copyRange area edit first count))) := by
  have taken := takeClaim_oldest (f := Claim.isSnapshotOf p) (c := .snapshot p area edit first count) (before := before)
    (after := after) (later := later) (by simp [Claim.isSnapshotOf]) hb
  have port : ({ s with claims := claimsLeft before after later } : State).port p = s.port p := rfl
  simp [exec, execSnapshot, State.whenReleased_high hlow, show s.claims = _ from ho, taken, State.modPort, port, hs, ht]

/-- Settles O46: the copy word by word, then the port's frames. -/
theorem snapshotCopiesTheRange : Obligations.SnapshotCopiesTheRange := by
  intro p s area edit first count before after later x hlow ho hb hs hx hxc hseq hcount hroom
  have hlength : (s.copyRange area edit first count).length = count := by simp [State.copyRange]
  obtain ⟨hframes, hport⟩ := PortState.takeSnapshot_effect x s.image.gen (s.copyRange area edit first count) hroom
  have hbuffer : ((s.port p).takeSnapshot x s.image.gen (s.copyRange area edit first count)).buffer =
      s.copyRange area edit first count := by rw [hport]
  refine ⟨_, exec_snapshot_oldest hlow ho hb hs hx, rfl, rfl, fun q hq => port_setPort_other _ _ _ _ hq, ?_, ?_, ?_, ?_⟩
  · rw [port_setPort_same, hbuffer, hlength]
  · intro j hj
    rw [port_setPort_same, hbuffer]
    refine ⟨s.areaWord area edit (first + j), by simp [State.copyRange, hj], ?_, ?_, ?_, ?_, ?_, ?_⟩
    · rintro rfl; rfl
    · rintro rfl; rfl
    · rintro rfl; rfl
    · rintro rfl rfl; rfl
    · rintro rfl rfl; rfl
    · rintro rfl
      generalize first + j = i
      refine ⟨?_, ?_, ?_, ?_, ?_, ?_, ?_, ?_, fun g => ?_, fun q => ⟨fun h => ?_, fun h => ?_, fun h => ?_, fun h => ?_,
        fun h => ?_, ?_⟩⟩
      · rintro rfl; rfl
      · rintro rfl; rfl
      · rintro rfl; exact toNat_diaWord_2 s
      · rintro rfl; exact toNat_diaWord_3 s
      · rintro rfl; exact diaWord_4 s
      · rintro rfl; rfl
      · rintro rfl; exact toNat_diaWord_6 s
      · rintro rfl; rfl
      · rintro rfl; exact diaWord_group s g
      · exact diaWord_counter s q (k := 0) (by decide) h
      · exact diaWord_counter s q (k := 1) (by decide) (by omega)
      · exact diaWord_counter s q (k := 2) (by decide) (by omega)
      · exact diaWord_counter s q (k := 3) (by decide) (by omega)
      · exact diaWord_counter s q (k := 4) (by decide) (by omega)
      · rintro rfl; exact diaWord_lost s q
  · rw [port_setPort_same, hbuffer, hframes, datFrame_zero _ _ (by rw [hlength, hcount])]
    rw [← hcount]
    rfl
  · rw [port_setPort_same, hport]

end Sys2Proof.Machine
end

section
/-! PROOFS. A request that is performed: what its row makes of the part, once for every operation. -/

namespace Sys2Proof.Machine

/-! ### The port when its request is performed -/

/-- The port as its request meets it: the paused flag cleared (R127), and a notice's wait suspended (R81). -/
def PortState.readied (ps : PortState) : PortState :=
  let heard := ps.modNotice fun ns => { ns with paused := false }
  if ps.session = .notifying then heard.suspendNotice else heard

/-- The readying of a port at rest: IDLE, with its slot and the delivery of its notices changed alone. -/
theorem PortState.readied_eq {ps : PortState} (h : ps.session = .idle ∨ ps.session = .notifying) :
    ps.readied =
      { ps with tx := { ps.tx with slot := ps.readied.tx.slot }, session := .idle
                notice := { ps.notice with paused := false, tNtc := ps.readied.notice.tNtc } } := by
  unfold PortState.readied
  rcases h with h | h
  · simp [h, PortState.modNotice]
  · simp [h, PortState.modNotice, PortState.suspendNotice, PortState.takeBack, PortState.leaveNotifying]

/-- A final reply at a port at rest, and delivery after it, are all that its master sees (R84, R121). -/
theorem PortState.answersFinal_readied {ps : PortState} (h : AtRest ps) (request : List Byte) (code : ReplyCode)
    (detail : List Byte) (enabled : Bool) :
    AnswersFinal ps ((ps.readied.respond request code detail true).deliver enabled) request code.byte detail := by
  obtain ⟨hs, ht, -⟩ := h
  have ready := PortState.readied_eq hs
  generalize ps.readied = r at ready ⊢
  have noTransfer : r.transfer = none := by rw [ready]; exact ht
  obtain ⟨frames, answered⟩ := PortState.respond_final r request code detail noTransfer
  generalize r.respond request code detail true = a at frames answered ⊢
  have session : a.session = .idle := by rw [answered, ready]
  have told := PortState.sameNotices_deliver a enabled
  refine ⟨?_, ?_, ?_, ?_, ?_⟩
  · rw [PortState.frames_deliver]
    show a.tx.frames = _
    rw [frames, ready]
    rfl
  · rw [PortState.deliver_eq, answered]
  · rw [PortState.deliver_eq, answered, ready]
  · have before : SameNotices ps.notice a.notice := by
      rw [answered, ready]
      exact ⟨rfl, rfl, rfl⟩
    obtain ⟨subs, lost, entries⟩ := before
    obtain ⟨subs', lost', entries'⟩ := told
    exact ⟨subs'.trans subs, lost'.trans lost, entries'.trans entries⟩
  · rcases PortState.session_deliver a enabled with k | k
    · exact .inl (k.trans session)
    · exact .inr k

/-! ### The row of a request -/

/-- Two changes that agree on the port as it stands are one. -/
theorem modPort_congr {s : State} {p : Port} {f g : PortState → PortState} (h : f (s.port p) = g (s.port p)) :
    s.modPort p f = s.modPort p g := by
  simp only [State.modPort, h]

/-- A new request with a tag is performed (R80, steps 2 to 6). -/
theorem judgeRequest_performs {s : State} {p : Port} {tag : Byte} {r : Request} (htag : tag ≠ 0)
    (hrec : ∀ x ∈ (s.port p).record, x.request ≠ r.payload tag) :
    s.judgeRequest p (r.payload tag) = s.perform p (r.payload tag) r := by
  have new : (s.port p).record.filter (fun x => x.request = r.payload tag) = none := by
    rw [Option.filter_eq_none_iff]
    simpa using hrec
  rw [State.judgeRequest, new]
  simp only [tagOf_payload, htag, if_false, requestOfPayload_payload]

/-- A REQ at a port that is ready for it, whose paused flag is cleared, is performed (R80 to R82). -/
theorem takeReq_performs {s : State} {p : Port} {tag : Byte} {r : Request} (h : Performs s p (r.payload tag)) :
    (s.modPort p fun ps => ps.modNotice fun ns => { ns with paused := false }).takeReq p (r.payload tag) =
      (s.modPort p PortState.readied).perform p (r.payload tag) r := by
  obtain ⟨-, ⟨hs, -, hb⟩, htag, hrec⟩ := h
  have long : ¬(r.payload tag).length < 2 := by simp [Request.payload]
  have kept : ((s.modPort p PortState.readied).port p).record = (s.port p).record := by
    rw [port_modPort_same, PortState.readied_eq hs]
  rw [← judgeRequest_performs (tag := tag) htag (by rwa [kept]), State.takeReq, if_neg long, port_modPort_same]
  rcases hs with hs | hs
  · rw [modPort_congr (f := PortState.readied) (g := fun ps => ps.modNotice fun ns => { ns with paused := false })
      (by simp [PortState.readied, hs])]
    simp [PortState.modNotice, hs, hb]
  · rw [modPort_congr (f := PortState.readied)
      (g := fun ps => (ps.modNotice fun ns => { ns with paused := false }).suspendNotice)
      (by simp [PortState.readied, hs])]
    simp [PortState.modNotice, hs, modPort_modPort]

/-- A request row at a port that is ready for it performs the request, and delivery judges after it (R80, R127). -/
theorem exec_performs {i : Instr} {p : Port} {tag : Byte} {r : Request} {s : State}
    (hi : frameOf i = some (p, .req, r.payload tag)) (h : Performs s p (r.payload tag)) :
    exec i s = .next (((s.modPort p PortState.readied).perform p (r.payload tag) r).judge p) := by
  obtain ⟨hlow, hbrk⟩ := h.1
  have notHeld : (s.port p).held = false := by simp [PortState.held, hbrk]
  rw [exec_of_frameOf hi, State.frameRow, State.whenReleased_high hlow]
  simp only [notHeld, Bool.false_eq_true, if_false, State.arrive, State.takeFrame, takeReq_performs h]

/-- A request whose performing ends in a final reply at its port: what it made of the rest of the part stands, and
the port answers. -/
theorem exec_answers {i : Instr} {p : Port} {tag : Byte} {r : Request} {s made : State} {code : ReplyCode}
    {detail : List Byte} (hi : frameOf i = some (p, .req, r.payload tag)) (h : Performs s p (r.payload tag))
    (hports : made.ports = (s.modPort p PortState.readied).ports)
    (hr : (s.modPort p PortState.readied).perform p (r.payload tag) r =
      made.modPort p fun ps => ps.respond (r.payload tag) code detail true) :
    ∃ t, exec i s = .next t ∧ t = { made with ports := t.ports } ∧ (∀ q, q ≠ p → t.port q = s.port q) ∧
      AnswersFinal (s.port p) (t.port p) (r.payload tag) code.byte detail := by
  have made_port (q : Port) : made.port q = (s.modPort p PortState.readied).port q := by simp only [State.port, hports]
  refine ⟨_, exec_performs hi h, ?_, fun q hq => ?_, ?_⟩
  · rw [hr]
    rfl
  · rw [hr, State.judge, port_modPort_other _ _ _ _ hq, port_modPort_other _ _ _ _ hq, made_port,
      port_modPort_other _ _ _ _ hq]
  · rw [hr, State.judge, port_modPort_same, port_modPort_same, made_port, port_modPort_same]
    exact PortState.answersFinal_readied h.2.1 _ _ _ _

/-- A request whose performing is a refusal (R31, R86). -/
theorem exec_refuses {i : Instr} {p : Port} {tag : Byte} {r : Request} {s : State} {code : ReplyCode} {detail : Word}
    (hi : frameOf i = some (p, .req, r.payload tag)) (h : Performs s p (r.payload tag))
    (hr : (s.modPort p PortState.readied).perform p (r.payload tag) r =
      (s.modPort p PortState.readied).modPort p fun ps => ps.refuse (r.payload tag) code detail) :
    ∃ t, exec i s = .next t ∧ Refused s t p (r.payload tag) code.byte detail := by
  obtain ⟨t, he, ht, others, answer⟩ := exec_answers hi h rfl hr
  exact ⟨t, he, answer, ht, others⟩

end Sys2Proof.Machine
end

section
/-! PROOFS. The Hold Table's own functions: the checks of a HOLD in their order, and the walk of the next-id counter. -/

namespace Sys2Proof.Machine

/-! ### The checks of a HOLD -/

/-- An area is named by its own code and by no other (R1). -/
theorem areaOf_eq_some {code : Byte} {area : Area} : areaOf code = some area ↔ area.code = code := by
  refine ⟨fun h => ?_, fun h => h ▸ areaOf_code area⟩
  unfold areaOf at h
  split at h
  · next hc => cases h; exact BitVec.eq_of_toNat_eq hc.symm
  · next hc => cases h; exact BitVec.eq_of_toNat_eq hc.symm
  · next hc => cases h; exact BitVec.eq_of_toNat_eq hc.symm
  · next hc => cases h; exact BitVec.eq_of_toNat_eq hc.symm
  · next hc => cases h; exact BitVec.eq_of_toNat_eq hc.symm
  · cases h

/-- The areas that can be held (R29, check 1). -/
abbrev Area.Holdable (area : Area) : Prop := area = .out ∨ area = .wrd ∨ area = .prm

theorem holdArea_code {area : Area} (h : area.Holdable) : holdArea area.code = some area := by
  rcases h with rfl | rfl | rfl <;> rfl

theorem holdable_of_holdArea {code : Byte} {area : Area} (h : holdArea code = some area) : area.Holdable := by
  unfold holdArea at h
  split at h
  · cases h; exact .inl rfl
  · cases h; exact .inr (.inl rfl)
  · cases h; exact .inr (.inr rfl)
  · cases h

theorem holdArea_eq_none {code : Byte} (hout : code ≠ 2) (hwrd : code ≠ 3) (hprm : code ≠ 4) :
    holdArea code = none := by
  unfold holdArea
  split
  · next h => exact absurd (areaOf_eq_some.mp h).symm hout
  · next h => exact absurd (areaOf_eq_some.mp h).symm hwrd
  · next h => exact absurd (areaOf_eq_some.mp h).symm hprm
  · rfl

/-- The lowest id among entries is one id. -/
theorem lowestId_filter_eq_some {holds : List Hold} {blocks : Hold → Prop} [DecidablePred blocks] {id : Byte}
    (h : LowestId holds blocks id) : lowestId (holds.filter fun x => blocks x) = some id := by
  obtain ⟨⟨x, hx, hbx, rfl⟩, lowest⟩ := h
  cases hl : lowestId (holds.filter fun x => blocks x) with
  | none =>
    rw [lowestId_eq_none, List.filter_eq_nil_iff] at hl
    exact absurd (by simpa using hbx) (hl x hx)
  | some i =>
    obtain ⟨⟨y, hy, rfl⟩, least⟩ := lowestId_eq_some hl
    rw [List.mem_filter, decide_eq_true_eq] at hy
    have le : y.id.toNat ≤ x.id.toNat := least x (List.mem_filter.mpr ⟨hx, by simpa using hbx⟩)
    have ge : x.id.toNat ≤ y.id.toNat := lowest y hy.1 hy.2
    rw [BitVec.eq_of_toNat_eq (Nat.le_antisymm le ge)]

/-- An overlap with a range that is not empty, in the terms of R25. -/
theorem Hold.overlaps_iff (h : Hold) (area : Area) {first count : Nat} (h1 : 1 ≤ count) :
    h.overlaps area first (first + count - 1) = true ↔ h.meets area first count := by
  simp only [Hold.overlaps, Hold.meets, Bool.and_eq_true, decide_eq_true_eq, and_assoc]
  exact and_congr_right fun _ => and_congr_left fun _ => by omega

theorem blocking_eq_some {holds : List Hold} {p : Port} {area : Area} {first count : Nat} {id : Byte} (h1 : 1 ≤ count)
    (h : LowestId holds (fun x => x.owner ≠ p ∧ x.meets area first count) id) :
    blocking holds p area first (first + count - 1) = some id := by
  rw [← lowestId_filter_eq_some h]
  simp [blocking, ← Hold.overlaps_iff _ _ h1]

theorem ownOverlap_eq_some {holds : List Hold} {p : Port} {area : Area} {first count : Nat} {id : Byte} (h1 : 1 ≤ count)
    (h : LowestId holds (fun x => x.owner = p ∧ x.meets area first count) id) :
    ownOverlap holds p area first (first + count - 1) = some id := by
  rw [← lowestId_filter_eq_some h]
  simp [ownOverlap, ← Hold.overlaps_iff _ _ h1]

/-- The fifth check passes just when no entry of the port meets the range. -/
theorem ownOverlap_eq_none {holds : List Hold} {p : Port} {area : Area} {first count : Nat} (h1 : 1 ≤ count) :
    ownOverlap holds p area first (first + count - 1) = none ↔
      ∀ h ∈ holds, h.owner = p → ¬h.meets area first count := by
  simp [ownOverlap, lowestId_eq_none, ← Hold.overlaps_iff _ _ h1]

/-- A range inside its area (R29, check 2). -/
theorem rangeInside_iff {area : Area} {first count : Nat} :
    rangeInside area first count = true ↔ 1 ≤ count ∧ first + count ≤ area.size := by
  simp only [rangeInside, Bool.and_eq_true, decide_eq_true_eq]
  omega

theorem leaseValid_iff {lease : Word} : leaseValid lease = true ↔ 1 ≤ lease.toNat ∧ lease.toNat ≤ 600 := by
  simp only [leaseValid, Bool.and_eq_true, decide_eq_true_eq]
  rfl

/-- Checks 2 and 3 of R29 pass: a range inside the area and a lease within its limits. -/
abbrev HoldFits (area : Area) (first count : Nat) (lease : Word) : Prop :=
  (1 ≤ count ∧ first + count ≤ area.size) ∧ 1 ≤ lease.toNat ∧ lease.toNat ≤ 600

section
variable {holds : List Hold} {p : Port} {area : Area} {first count : Nat} {lease : Word}

theorem holdRefusal_range (h : ¬(1 ≤ count ∧ first + count ≤ area.size)) :
    holdRefusal holds p area first count lease = some (.range, 0) := by
  simp [holdRefusal, rangeInside_iff.not.mpr h]

theorem holdRefusal_lease (hr : 1 ≤ count ∧ first + count ≤ area.size) (h : ¬(1 ≤ lease.toNat ∧ lease.toNat ≤ 600)) :
    holdRefusal holds p area first count lease = some (.badlease, 0) := by
  simp [holdRefusal, rangeInside_iff.mpr hr, leaseValid_iff.not.mpr h]

theorem holdRefusal_held {id : Byte} (h : HoldFits area first count lease)
    (hb : blocking holds p area first (first + count - 1) = some id) :
    holdRefusal holds p area first count lease = some (.held, idDetail id) := by
  simp [holdRefusal, rangeInside_iff.mpr h.1, leaseValid_iff.mpr h.2, hb]

theorem holdRefusal_overlap {id : Byte} (h : HoldFits area first count lease)
    (hb : blocking holds p area first (first + count - 1) = none)
    (ho : ownOverlap holds p area first (first + count - 1) = some id) :
    holdRefusal holds p area first count lease = some (.overlap, idDetail id) := by
  simp [holdRefusal, rangeInside_iff.mpr h.1, leaseValid_iff.mpr h.2, hb, ho]

/-- The last two checks, where the range is free. -/
theorem holdRefusal_free (h : HoldFits area first count lease)
    (hb : blocking holds p area first (first + count - 1) = none)
    (ho : ownOverlap holds p area first (first + count - 1) = none) :
    holdRefusal holds p area first count lease =
      if 8 ≤ (holds.filter fun x => x.owner = p).length then some (.limit, 0)
      else if 16 ≤ holds.length then some (.full, 0)
      else none := by
  simp only [holdRefusal, rangeInside_iff.mpr h.1, leaseValid_iff.mpr h.2, hb, ho, Bool.not_true, Bool.false_eq_true,
    if_false]
  rfl

/-- No entry meets a range just when neither consultation of the Hold Table answers an id. -/
theorem forall_not_meets_iff (h1 : 1 ≤ count) :
    (∀ h ∈ holds, ¬h.meets area first count) ↔
      blocking holds p area first (first + count - 1) = none ∧
        ownOverlap holds p area first (first + count - 1) = none := by
  rw [blocking_eq_none h1, ownOverlap_eq_none h1]
  exact ⟨fun free => ⟨fun h hh _ => free h hh, fun h hh _ => free h hh⟩,
    fun ⟨others, own⟩ h hh => (em (h.owner = p)).elim (own h hh) (others h hh)⟩

/-- A HOLD passes just when every check from the second on does (R29). -/
theorem holdRefusal_eq_none :
    holdRefusal holds p area first count lease = none ↔
      HoldFits area first count lease ∧ (∀ h ∈ holds, ¬h.meets area first count) ∧
        (holds.filter fun h => h.owner = p).length < 8 ∧ holds.length < 16 := by
  by_cases hr : 1 ≤ count ∧ first + count ≤ area.size
  swap
  · simp [holdRefusal_range hr, HoldFits, hr]
  by_cases hl : 1 ≤ lease.toNat ∧ lease.toNat ≤ 600
  swap
  · simp [holdRefusal_lease hr hl, HoldFits, hl]
  have fits : HoldFits area first count lease := ⟨hr, hl⟩
  rw [forall_not_meets_iff (p := p) hr.1]
  cases hb : blocking holds p area first (first + count - 1) with
  | some id => simp [holdRefusal_held fits hb]
  | none =>
    cases ho : ownOverlap holds p area first (first + count - 1) with
    | some id => simp [holdRefusal_overlap fits hb ho]
    | none =>
      rw [holdRefusal_free fits hb ho]
      by_cases h8 : 8 ≤ (holds.filter fun x => x.owner = p).length
      · simp [h8]
      · by_cases h16 : 16 ≤ holds.length
        · simp [h8, h16]
        · exact iff_of_true (by simp [h8, h16]) ⟨fits, ⟨rfl, rfl⟩, by omega, by omega⟩

end

/-! ### The next-id counter -/

/-- One value further, from 255 to 1. -/
theorem toNat_nextIdValue {i : Byte} (hi : i ≠ 0) : (nextIdValue i).toNat = i.toNat % 255 + 1 := by
  revert i
  decide

theorem nextIdValue_ne_zero {i : Byte} (hi : i ≠ 0) : nextIdValue i ≠ 0 := by
  revert i
  decide

theorem iterate_nextIdValue {i : Byte} (hi : i ≠ 0) (k : Nat) :
    nextIdValue^[k] i ≠ 0 ∧ (nextIdValue^[k] i).toNat = idAfter i k := by
  induction k with
  | zero =>
    have pos : i.toNat ≠ 0 := fun h => hi (BitVec.eq_of_toNat_eq h)
    have := i.isLt
    refine ⟨hi, ?_⟩
    simp only [idAfter, Function.iterate_zero, id]
    omega
  | succ k ih =>
    rw [Function.iterate_succ_apply']
    refine ⟨nextIdValue_ne_zero ih.1, ?_⟩
    rw [toNat_nextIdValue ih.1, ih.2]
    simp only [idAfter]
    omega

/-- The walk past ids in use stops at the first that is not, or at the end of its fuel. -/
theorem skipUsed_spec (used : List Byte) (fuel : Nat) (i : Byte) :
    ∃ k ≤ fuel, skipUsed used fuel i = nextIdValue^[k] i ∧ (∀ j < k, nextIdValue^[j] i ∈ used) ∧
      (k < fuel → nextIdValue^[k] i ∉ used) := by
  induction fuel generalizing i with
  | zero => exact ⟨0, Nat.le_refl 0, rfl, by simp, by simp⟩
  | succ fuel ih =>
    by_cases hi : i ∈ used
    · obtain ⟨k, hk, heq, before, stop⟩ := ih (nextIdValue i)
      refine ⟨k + 1, by omega, by simpa [skipUsed, hi] using heq, fun j hj => ?_, fun h => stop (by omega)⟩
      cases j with
      | zero => exact hi
      | succ j => exact before j (by omega)
    · exact ⟨0, by omega, by simp [skipUsed, hi], by simp, fun _ => hi⟩

/-- Among 17 ids in a row one is not among 16 (R26). -/
theorem exists_unused_id {used : List Byte} (hlen : used.length ≤ 16) {i : Byte} (hi : i ≠ 0) :
    ∃ j ≤ 16, nextIdValue^[j] i ∉ used := by
  by_contra all
  push Not at all
  have sub : ((List.range 17).map fun j => nextIdValue^[j] i) ⊆ used := by
    intro x hx
    obtain ⟨j, hj, rfl⟩ := List.mem_map.mp hx
    exact all j (by have := List.mem_range.mp hj; omega)
  have nodup : ((List.range 17).map fun j => nextIdValue^[j] i).Nodup := by
    refine List.Nodup.map_on (fun a ha b hb hab => ?_) List.nodup_range
    have := congrArg BitVec.toNat hab
    rw [(iterate_nextIdValue hi a).2, (iterate_nextIdValue hi b).2] at this
    rw [List.mem_range] at ha hb
    simp only [idAfter] at this
    omega
  have := (nodup.subperm sub).length_le
  simp at this
  omega

/-- With at most 16 ids in use the counter goes on to the first value after it that is not in use (R26). -/
theorem advanceId_spec {used : List Byte} (hlen : used.length ≤ 16) {i : Byte} (hi : i ≠ 0) :
    ∃ k ≤ 16, (advanceId used i).toNat = idAfter i (k + 1) ∧ advanceId used i ∉ used ∧
      ∀ j < k, ∃ u ∈ used, u.toNat = idAfter i (j + 1) := by
  obtain ⟨k, hk, heq, before, stop⟩ := skipUsed_spec used 16 (nextIdValue i)
  obtain ⟨m, hm, unused⟩ := exists_unused_id hlen (nextIdValue_ne_zero hi)
  have le : k ≤ m := Nat.le_of_not_lt fun h => unused (before m h)
  have fresh : nextIdValue^[k] (nextIdValue i) ∉ used := by
    rcases Nat.lt_or_ge k 16 with h | h
    · exact stop h
    · rwa [show k = m by omega]
  refine ⟨k, hk, ?_, ?_, fun j hj => ⟨_, before j hj, (iterate_nextIdValue hi (j + 1)).2⟩⟩
  · rw [advanceId, heq]
    exact (iterate_nextIdValue hi (k + 1)).2
  · rwa [advanceId, heq]

theorem advanceId_ne_zero {used : List Byte} (hlen : used.length ≤ 16) {i : Byte} (hi : i ≠ 0) :
    advanceId used i ≠ 0 := by
  obtain ⟨k, -, value, -⟩ := advanceId_spec hlen hi
  intro h
  rw [h] at value
  simp [idAfter] at value

end Sys2Proof.Machine
end

section
/-! PROOFS. HOLD, RELEASE, RENEW and LEASE_EXPIRY: what each does to the Hold Table, and what its master is told. -/

namespace Sys2Proof.Machine

/-! ### HOLD -/

/-- A HOLD of an area that cannot be held fails the first check (R29). -/
theorem performHold_badarea {s : State} {p : Port} {request : List Byte} {code : Byte} {first count : Nat} {lease : Word}
    (h : holdArea code = none) :
    s.performHold p request code first count lease = s.modPort p fun ps => ps.refuse request .badarea 0 := by
  simp only [State.performHold, h]

theorem performHold_refused {s : State} {p : Port} {request : List Byte} {area : Area} {first count : Nat} {lease : Word}
    {code : ReplyCode} {detail : Word} (ha : area.Holdable)
    (h : holdRefusal s.holds p area first count lease = some (code, detail)) :
    s.performHold p request area.code first count lease = s.modPort p fun ps => ps.refuse request code detail := by
  simp only [State.performHold, holdArea_code ha, h]

theorem performHold_granted {s : State} {p : Port} {request : List Byte} {area : Area} {first count : Nat} {lease : Word}
    (ha : area.Holdable) (h : holdRefusal s.holds p area first count lease = none) :
    s.performHold p request area.code first count lease =
      (s.grantHold p area first count lease).modPort p fun ps => ps.respond request .done [s.nextId] true := by
  simp only [State.performHold, holdArea_code ha, h]

/-- Settles O20: the checks pass, and the counter's walk is `advanceId_spec`. -/
theorem holdIsGranted : Obligations.HoldIsGranted := by
  intro p tag area first count lease s hp ha hcount hinside hlease hmax hfree hown hall hid
  have passes : holdRefusal s.holds p area first.toNat count.toNat lease = none :=
    holdRefusal_eq_none.mpr ⟨⟨⟨hcount, hinside⟩, hlease, hmax⟩, hfree, hown, hall⟩
  obtain ⟨t, he, ht, others, answer⟩ := exec_answers (i := .hold p tag area.code first count lease)
    (made := (s.modPort p PortState.readied).grantHold p area first.toNat count.toNat lease) rfl hp
    (ports_grantHold ..) (performHold_granted ha passes)
  have holds : t.holds = ((s.modPort p PortState.readied).grantHold p area first.toNat count.toNat lease).holds := by rw [ht]
  have next : t.nextId = advanceId (t.holds.map Hold.id) s.nextId := by rw [holds, ht]; rfl
  have length : (t.holds.map Hold.id).length ≤ 16 := by
    rw [holds]
    simp only [State.grantHold, holds_modPort, List.length_map, List.length_append, List.length_singleton]
    omega
  refine ⟨t, he, ?_, others, holds, ?_, answer⟩
  · rw [ht]
    rfl
  · obtain ⟨k, hk, value, unused, passed⟩ := advanceId_spec length hid
    rw [← next] at value unused
    simp only [List.mem_map, exists_exists_and_eq_and] at unused passed
    exact ⟨k, hk, value, fun h hh heq => unused ⟨h, hh, heq⟩, passed⟩

/-- Settles O21: check by check, each refusal is `holdRefusal`'s. -/
theorem holdIsRefusedInOrder : Obligations.HoldIsRefusedInOrder := by
  intro p tag areaCode first count lease s hp refusedWith
  refine ⟨fun hout hwrd hprm => ?_, ?_⟩
  · exact exec_refuses (i := .hold p tag areaCode first count lease) (code := .badarea) rfl hp
      (performHold_badarea (holdArea_eq_none hout hwrd hprm))
  · rintro area rfl ha
    have refused (code : ReplyCode) (detail : Word)
        (h : holdRefusal s.holds p area first.toNat count.toNat lease = some (code, detail)) :
        refusedWith code.byte detail :=
      exec_refuses (i := .hold p tag area.code first count lease) rfl hp (performHold_refused ha h)
    refine ⟨fun h => refused _ _ (holdRefusal_range h), fun hcount hinside =>
      ⟨fun h => refused _ _ (holdRefusal_lease ⟨hcount, hinside⟩ h), fun hlease hmax => ?_⟩⟩
    have fits : HoldFits area first.toNat count.toNat lease := ⟨⟨hcount, hinside⟩, hlease, hmax⟩
    refine ⟨fun id h => refused _ _ (holdRefusal_held fits (blocking_eq_some hcount h)), fun others =>
      ⟨fun id h => refused _ _
        (holdRefusal_overlap fits ((blocking_eq_none hcount).mpr others) (ownOverlap_eq_some hcount h)), fun free => ?_⟩⟩
    obtain ⟨hb, ho⟩ := (forall_not_meets_iff (p := p) hcount).mp free
    have last := holdRefusal_free fits hb ho
    refine ⟨fun own => refused .limit 0 ?_, fun own all => refused .full 0 ?_⟩
    · rw [last, if_pos own]
    · rw [last, if_neg (by omega), if_pos all]

/-! ### RELEASE and RENEW -/

section
variable {s : State} {p : Port} {request : List Byte} {id : Byte} {lease : Word} {h : Hold}

theorem performRelease_notfound (hf : findHold s.holds id = none) :
    s.performRelease p request id = s.modPort p fun ps => ps.refuse request .notfound 0 := by
  simp only [State.performRelease, hf]

theorem performRelease_notowner (hf : findHold s.holds id = some h) (ho : h.owner ≠ p) :
    s.performRelease p request id = s.modPort p fun ps => ps.refuse request .notowner 0 := by
  simp only [State.performRelease, hf, ho, ne_eq, not_false_eq_true, if_true]

theorem performRelease_done (hf : findHold s.holds id = some h) (ho : h.owner = p) :
    s.performRelease p request id = (s.removeHold id).modPort p fun ps => ps.respond request .done [] true := by
  simp only [State.performRelease, hf, ho, ne_eq, not_true_eq_false, if_false]

theorem performRenew_notfound (hf : findHold s.holds id = none) :
    s.performRenew p request id lease = s.modPort p fun ps => ps.refuse request .notfound 0 := by
  simp only [State.performRenew, hf]

theorem performRenew_notowner (hf : findHold s.holds id = some h) (ho : h.owner ≠ p) :
    s.performRenew p request id lease = s.modPort p fun ps => ps.refuse request .notowner 0 := by
  simp only [State.performRenew, hf, ho, ne_eq, not_false_eq_true, if_true]

theorem performRenew_badlease (hf : findHold s.holds id = some h) (ho : h.owner = p)
    (hl : ¬(1 ≤ lease.toNat ∧ lease.toNat ≤ 600)) :
    s.performRenew p request id lease = s.modPort p fun ps => ps.refuse request .badlease 0 := by
  simp [State.performRenew, hf, ho, leaseValid_iff.not.mpr hl]

theorem performRenew_done (hf : findHold s.holds id = some h) (ho : h.owner = p)
    (hl : 1 ≤ lease.toNat ∧ lease.toNat ≤ 600) :
    s.performRenew p request id lease = (s.renewHold id lease).modPort p fun ps => ps.respond request .done [] true := by
  simp [State.performRenew, hf, ho, leaseValid_iff.mpr hl]

end

theorem findHold_eq_none {holds : List Hold} {id : Byte} (h : ∀ x ∈ holds, x.id ≠ id) : findHold holds id = none := by
  simpa [findHold] using h

/-- Settles O22: RELEASE, then RENEW, by the entry that the id finds. -/
theorem holdIsReleasedOrRenewed : Obligations.HoldIsReleasedOrRenewed := by
  refine ⟨fun p tag id s hp => ⟨fun hnone => ?_, fun h hf => ⟨fun ho => ?_, fun ho => ?_⟩⟩,
    fun p tag id lease s hp => ⟨fun hnone => ?_, fun h hf => ⟨fun ho => ?_, fun ho hl => ?_, fun ho hl hmax => ?_⟩⟩⟩
  · exact exec_refuses rfl hp (performRelease_notfound (findHold_eq_none hnone))
  · exact exec_refuses rfl hp (performRelease_notowner hf ho)
  · obtain ⟨t, he, ht, others, answer⟩ := exec_answers (i := .release p tag id)
      (made := (s.modPort p PortState.readied).removeHold id) rfl hp rfl (performRelease_done hf ho)
    refine ⟨t, he, ?_, others, ?_, answer⟩
    · rw [ht]; rfl
    · rw [ht]; rfl
  · exact exec_refuses rfl hp (performRenew_notfound (findHold_eq_none hnone))
  · exact exec_refuses rfl hp (performRenew_notowner hf ho)
  · exact exec_refuses rfl hp (performRenew_badlease hf ho hl)
  · obtain ⟨t, he, ht, others, answer⟩ := exec_answers (i := .renew p tag id lease)
      (made := (s.modPort p PortState.readied).renewHold id lease) rfl hp rfl (performRenew_done hf ho ⟨hl, hmax⟩)
    refine ⟨t, he, ?_, others, ?_, answer⟩
    · rw [ht]; rfl
    · rw [ht]; rfl

/-! ### LEASE_EXPIRY -/

/-- An item that is no CHANGE joins the queue, or is lost (R119). -/
theorem NoticeState.queued_place_notChange {ns : NoticeState} {item : Notice} (hkind : item.kind ≠ .change)
    (hsent : item.sent = none) : Queued ns (ns.place item) item := by
  have entry : item.entry = item := by rw [Notice.entry, ← hsent]
  have place_eq : ns.place item =
      if ns.queue.length < 8 then { ns with queue := ns.queue ++ [item] } else { ns with lost := satInc ns.lost } := by
    rw [NoticeState.place, if_neg (by simp [hkind])]
    rfl
  refine ⟨NoticeState.subs_place ns item, ?_⟩
  by_cases room : ns.queue.length < 8
  · simp [place_eq, room, entry]
  · simp [place_eq, room, toNat_satInc]

/-- A port is told a single item that is no CHANGE: it is queued or lost with the bit at 1, and nothing is made with the
bit at 0 (R117). -/
theorem PortState.told_notify_notChange (ps : PortState) {item : Notice} (enabled : Bool) (hkind : item.kind ≠ .change)
    (hsent : item.sent = none) : Told enabled ps (ps.notify enabled [item]) item := by
  unfold Told
  cases enabled with
  | false =>
    rw [if_neg Bool.false_ne_true]
    exact PortState.notify_nothing ps (.inl rfl)
  | true =>
    rw [if_pos rfl]
    obtain ⟨hsubs, hlost, hqueue⟩ := PortState.receives_notify ps [item]
    obtain ⟨-, joined⟩ := NoticeState.queued_place_notChange (ns := ps.notice) hkind hsent
    refine ⟨PortState.notify_eq _ _ _, hsubs, ?_⟩
    rw [hlost, hqueue]
    exact joined

/-- The entry that an id finds, with nothing left of its lease, is the one whose expiry is taken (R34). -/
theorem find_runOut {holds : List Hold} {id : Byte} {h : Hold} (hf : findHold holds id = some h) (h0 : h.lease = 0) :
    holds.find? (fun x => x.id = id && x.runOut) = some h := by
  obtain ⟨hid, before, after, rfl, none⟩ := List.find?_eq_some_iff_append.mp hf
  refine List.find?_eq_some_iff_append.mpr ⟨by simpa [Hold.runOut, h0] using hid, before, after, rfl, fun x hx => ?_⟩
  have other : ¬x.id = id := by simpa using none x hx
  simp [other]

theorem exec_leaseExpiry {s : State} {id : Byte} {h : Hold} (hlow : s.resetLow = false)
    (hf : findHold s.holds id = some h) (h0 : h.lease = 0) :
    exec (.leaseExpiry id) s = .next ((s.removeHold id).reportItem h.owner (holdlostItem h s.image.gen)) := by
  simp only [exec, execLeaseExpiry, State.whenReleased_high hlow, find_runOut hf h0]

/-- Settles O23: the entry goes, and its owner is told as any port is of a single item. -/
theorem leaseExpiryTellsTheOwner : Obligations.LeaseExpiryTellsTheOwner := by
  intro id s h hlow hf h0
  obtain rfl : h.id = id := by simpa using List.find?_some hf
  refine ⟨_, exec_leaseExpiry hlow hf h0, rfl, fun q hq => port_modPort_other _ _ _ _ hq, rfl, ?_⟩
  rw [State.reportItem, port_modPort_same]
  exact PortState.told_notify_notChange _ _ (by simp [holdlostItem]) rfl

end Sys2Proof.Machine
end

section
/-! PROOFS. The limits of the Hold Table (R23, R24, R26): all that a command can do to the table and the counter, what each
such change keeps, then a step. -/

namespace Sys2Proof.Machine

/-! ### What can happen to the Hold Table -/

/-- The Hold Table with its next-id counter. -/
def State.holdTable (s : State) : List Hold × Byte := (s.holds, s.nextId)

/-- All that an event can do to the Hold Table: nothing, a grant (R30), the removal of entries (R27, R32, R35, R36), new
leases, each no longer than it was or within 600 (R33, R34), and the power-on table (R27). -/
inductive HoldChange (s t : State) : Prop where
  | stays (h : t.holdTable = s.holdTable)
  | granted {p : Port} {area : Area} {first count : Nat} {lease : Word} (ha : area.Holdable)
      (hr : holdRefusal s.holds p area first count lease = none)
      (h : t.holdTable = (s.grantHold p area first count lease).holdTable)
  | removed (keep : Hold → Bool) (h : t.holdTable = (s.holds.filter keep, s.nextId))
  | relet (left : Hold → Nat) (hl : ∀ x, left x ≤ x.lease ∨ left x ≤ 60000)
      (h : t.holdTable = (s.holds.map fun x => { x with lease := left x }, s.nextId))
  | emptied (h : t.holdTable = ([], 1))

/-- A change of the table goes with the tables before and after it alone. -/
theorem HoldChange.congr {s s' t t' : State} (h : HoldChange s t) (hs : s'.holdTable = s.holdTable)
    (ht : t'.holdTable = t.holdTable) : HoldChange s' t' := by
  obtain ⟨holds, next⟩ := Prod.mk.inj hs
  cases h with
  | stays h => exact .stays (ht.trans (h.trans hs.symm))
  | granted ha hr h =>
    refine .granted ha (by rwa [holds]) (ht.trans (h.trans ?_))
    simp only [State.holdTable, State.grantHold, holds, next]
  | removed keep h => exact .removed keep (by rw [ht, h, holds, next])
  | relet left hl h => exact .relet left hl (by rw [ht, h, holds, next])
  | emptied h => exact .emptied (ht.trans h)

/-! ### What each change keeps -/

theorem holdsSound_congr {s t : State} (h : t.holdTable = s.holdTable) (hs : HoldsSound s) : HoldsSound t := by
  obtain ⟨holds, next⟩ := Prod.mk.inj h
  unfold HoldsSound
  rw [holds, next]
  exact hs

/-- A granted entry overlaps none, takes an id that none has, and leaves the counter at one that none has. -/
theorem holdsSound_grantHold {s : State} {p : Port} {area : Area} {first count : Nat} {lease : Word} (ha : area.Holdable)
    (hr : holdRefusal s.holds p area first count lease = none) (hs : HoldsSound s) :
    HoldsSound (s.grantHold p area first count lease) := by
  obtain ⟨-, perPort, apart, entries, idNonzero, idUnused⟩ := hs
  obtain ⟨⟨⟨hcount, hinside⟩, -, hmax⟩, free, own, all⟩ := holdRefusal_eq_none.mp hr
  have length : (s.grantHold p area first count lease).holds.length ≤ 16 := by
    simp only [State.grantHold, List.length_append, List.length_singleton]
    omega
  have idsLength : ((s.grantHold p area first count lease).holds.map Hold.id).length ≤ 16 := by rwa [List.length_map]
  refine ⟨length, fun q => ?_, ?_, fun x hx => ?_, advanceId_ne_zero idsLength idNonzero, fun x hx heq => ?_⟩
  · simp only [State.grantHold, List.filter_append, List.length_append]
    by_cases hq : p = q
    · subst hq
      simp only [decide_true, List.filter_cons_of_pos, List.filter_nil, List.length_singleton]
      omega
    · simpa [hq] using perPort q
  · refine List.pairwise_append.mpr ⟨apart, List.pairwise_singleton _ _, fun x hx y hy => ?_⟩
    obtain rfl := List.mem_singleton.mp hy
    exact ⟨idUnused x hx, fun ⟨sameArea, below, above⟩ => free x hx ⟨sameArea, by dsimp only at below; omega, above⟩⟩
  · rcases List.mem_append.mp hx with hx | hx
    · exact entries x hx
    · obtain rfl := List.mem_singleton.mp hx
      refine ⟨idNonzero, ha, ?_, ?_, ?_⟩
      · dsimp only; omega
      · dsimp only; omega
      · simp only [leaseMs]; omega
  · obtain ⟨-, -, -, unused, -⟩ := advanceId_spec idsLength idNonzero
    exact unused (List.mem_map.mpr ⟨x, hx, heq⟩)

theorem holdsSound_filter {s : State} (keep : Hold → Bool) (hs : HoldsSound s) :
    HoldsSound { s with holds := s.holds.filter keep } := by
  obtain ⟨length, perPort, apart, entries, idNonzero, idUnused⟩ := hs
  refine ⟨Nat.le_trans (List.length_filter_le _ _) length, fun q => ?_, apart.filter _,
    fun x hx => entries x (List.mem_of_mem_filter hx), idNonzero, fun x hx => idUnused x (List.mem_of_mem_filter hx)⟩
  exact Nat.le_trans (List.filter_sublist.filter _).length_le (perPort q)

theorem holdsSound_relet {s : State} {left : Hold → Nat} (hl : ∀ x, left x ≤ x.lease ∨ left x ≤ 60000)
    (hs : HoldsSound s) : HoldsSound { s with holds := s.holds.map fun x => { x with lease := left x } } := by
  obtain ⟨length, perPort, apart, entries, idNonzero, idUnused⟩ := hs
  refine ⟨by simpa using length, fun q => ?_, List.pairwise_map.mpr apart, fun x hx => ?_, idNonzero, fun x hx => ?_⟩
  · simpa [List.filter_map, Function.comp_def] using perPort q
  · obtain ⟨y, hy, rfl⟩ := List.mem_map.mp hx
    obtain ⟨id, area, order, inside, lease⟩ := entries y hy
    exact ⟨id, area, order, inside, (hl y).elim (fun le => Nat.le_trans le lease) fun le => le⟩
  · obtain ⟨y, hy, rfl⟩ := List.mem_map.mp hx
    exact idUnused y hy

/-- Every change that can happen to the Hold Table keeps its limits. -/
theorem HoldChange.holdsSound {s t : State} (h : HoldChange s t) (hs : HoldsSound s) : HoldsSound t := by
  cases h with
  | stays h => exact holdsSound_congr h hs
  | granted ha hr h => exact holdsSound_congr h (holdsSound_grantHold ha hr hs)
  | removed keep h => exact holdsSound_congr (s := { s with holds := s.holds.filter keep }) h (holdsSound_filter keep hs)
  | relet left hl h =>
    exact holdsSound_congr (s := { s with holds := s.holds.map fun x => { x with lease := left x } }) h
      (holdsSound_relet hl hs)
  | emptied h => exact holdsSound_congr (s := State.reset) h holdsSound_reset

/-! ### The Hold Table after each shared operation -/

@[simp] theorem holdTable_handOver (s : State) (cs : List Claim) : (s.handOver cs).holdTable = s.holdTable := by
  simp [State.holdTable]

@[simp] theorem holdTable_applyLine (s : State) (n : Line) (r : LineFilter × List Claim) :
    (s.applyLine n r).holdTable = s.holdTable := holdTable_handOver _ _

@[simp] theorem holdTable_enterFallback (s : State) (g : Group) : (s.enterFallback g).holdTable = s.holdTable := by
  unfold State.enterFallback
  dsimp only
  split <;> rfl

@[simp] theorem holdTable_commitDone (s : State) (p : Port) (outcome : FinOutcome) (gen : Gen) (detail : Byte) :
    (s.commitDone p outcome gen detail).holdTable = s.holdTable := by
  unfold State.commitDone
  dsimp only
  split <;> rfl

@[simp] theorem holdTable_bankDone (s : State) (p : Port) (code : ReplyCode) (detail : List Byte) :
    (s.bankDone p code detail).holdTable = s.holdTable := by
  unfold State.bankDone
  dsimp only
  split <;> rfl

@[simp] theorem holdTable_applyCommit (s : State) (p : Port) (op : WriteOp) (r : Region) (first count : Nat) :
    (s.applyCommit p op r first count).holdTable = s.holdTable := by
  unfold State.applyCommit
  dsimp only
  split <;> rfl

@[simp] theorem holdTable_takeCommit (s : State) (p : Port) (op : WriteOp) (r : Region) (first count : Nat) :
    (s.takeCommit p op r first count).holdTable = s.holdTable := by
  unfold State.takeCommit
  cases commitCheck s.image s.holds p r first count <;> simp

@[simp] theorem holdTable_performSwap (s : State) : s.performSwap.holdTable = s.holdTable := by
  simp [State.holdTable, State.performSwap, State.swapField, State.outputSwap, State.inputSwap]

theorem holdTable_performTransfer (s : State) (p : Port) (request : List Byte) (op : TransferOp)
    (areaCode flags : Byte) (first count : Nat) :
    (s.performTransfer p request op areaCode flags first count).holdTable = s.holdTable := by
  unfold State.performTransfer
  split
  · rfl
  · split
    · rfl
    · dsimp only
      split
      · exact holdTable_handOver _ _
      · rfl

theorem holdTable_takeDat (s : State) (p : Port) (payload : List Byte) :
    (s.takeDat p payload).holdTable = s.holdTable := by
  unfold State.takeDat State.receiveSegment State.storeSegment
  split
  · dsimp only
    split
    · rfl
    · rfl
    · split
      · split
        · split
          · rfl
          · exact holdTable_handOver _ _
        · split <;> rfl
      · rfl
    · rfl
  · rfl

/-! ### Requests and the Hold Table -/

theorem holdChange_performHold (s : State) (p : Port) (request : List Byte) (areaCode : Byte) (first count : Nat)
    (lease : Word) : HoldChange s (s.performHold p request areaCode first count lease) := by
  unfold State.performHold
  split
  · exact .stays rfl
  · next area ha =>
    split
    · exact .stays rfl
    · next hr => exact .granted (holdable_of_holdArea ha) hr rfl

theorem holdChange_performRelease (s : State) (p : Port) (request : List Byte) (id : Byte) :
    HoldChange s (s.performRelease p request id) := by
  unfold State.performRelease
  split
  · exact .stays rfl
  · split
    · exact .stays rfl
    · exact .removed (fun h => h.id ≠ id) rfl

/-- The lease set afresh by a RENEW is within its limits (R33). -/
theorem holdChange_performRenew (s : State) (p : Port) (request : List Byte) (id : Byte) (lease : Word) :
    HoldChange s (s.performRenew p request id lease) := by
  unfold State.performRenew
  split
  · exact .stays rfl
  · split
    · exact .stays rfl
    · split
      · exact .stays rfl
      · next hl =>
        have within : leaseMs lease ≤ 60000 := by
          have := (leaseValid_iff.mp (by simpa using hl)).2
          unfold leaseMs
          omega
        refine .relet (fun h => if h.id = id then leaseMs lease else h.lease) (fun x => ?_) ?_
        · split
          · exact .inr within
          · exact .inl (Nat.le_refl _)
        · show (s.holds.map _, s.nextId) = _
          congr 2
          funext h
          split <;> rfl

theorem holdChange_perform (s : State) (p : Port) (request : List Byte) (r : Request) :
    HoldChange s (s.perform p request r) := by
  cases r with
  | read => exact .stays (holdTable_performTransfer ..)
  | write => exact .stays (holdTable_performTransfer ..)
  | mwrite => exact .stays (holdTable_performTransfer ..)
  | hold => exact holdChange_performHold ..
  | release => exact holdChange_performRelease ..
  | renew => exact holdChange_performRenew ..
  | subscribe => exact .stays rfl
  | unsubscribe => exact .stays rfl
  | swap => exact .stays (holdTable_handOver ..)
  | copy => exact .stays (holdTable_handOver ..)
  | ping => exact .stays rfl

theorem holdChange_judgeRequest (s : State) (p : Port) (request : List Byte) :
    HoldChange s (s.judgeRequest p request) := by
  unfold State.judgeRequest
  split
  · exact .stays rfl
  · split
    · exact .stays rfl
    · split
      · exact .stays rfl
      · exact holdChange_perform ..

theorem holdChange_takeReq (s : State) (p : Port) (request : List Byte) : HoldChange s (s.takeReq p request) := by
  unfold State.takeReq
  split
  · exact .stays rfl
  · split
    · exact (holdChange_judgeRequest (s.modPort p PortState.suspendNotice) p request).congr rfl rfl
    · split
      · exact .stays rfl
      · exact holdChange_judgeRequest ..
    · exact .stays rfl

theorem holdChange_arrive (s : State) (p : Port) (kind : MasterKind) (payload : List Byte) :
    HoldChange s (s.arrive p kind payload) := by
  cases kind with
  | req =>
    exact (holdChange_takeReq (s.modPort p fun ps => ps.modNotice fun ns => { ns with paused := false }) p
      payload).congr rfl rfl
  | dat => exact .stays (holdTable_takeDat ..)
  | ack => exact .stays rfl
  | nak => exact .stays rfl
  | abt => exact .stays rfl
  | nta => exact .stays rfl

/-! ### Commands and the Hold Table -/

theorem holdChange_whenReleased {s : State} {f : State → State} (hf : HoldChange s (f s)) :
    HoldChange s (s.whenReleased f) :=
  State.of_whenReleased (motive := HoldChange s) (.stays rfl) fun _ => hf

theorem holdChange_frameRow (s : State) (p : Port) (kind : MasterKind) (payload : List Byte) :
    HoldChange s (s.frameRow p kind payload) :=
  holdChange_whenReleased <| by
    split
    · exact .stays rfl
    · exact holdChange_arrive ..

theorem holdChange_goodCharacter (s : State) (p : Port) (data : Byte) : HoldChange s (s.goodCharacter p data) := by
  unfold State.goodCharacter
  dsimp only
  split
  · exact .stays rfl
  · exact .stays rfl
  · next kind payload _ =>
    exact (holdChange_arrive (s.modPort p fun ps => ps.modRx fun rx =>
      rx.complete ((s.port p).rx.assembly.take data).1) p kind payload).congr rfl rfl

/-- All that a command can do to the Hold Table. -/
theorem holdChange_exec (c : Instr) (s : State) : ∃ t, exec c s = .next t ∧ HoldChange s t := by
  cases hframe : frameOf c with
  | some frame => exact ⟨_, exec_of_frameOf hframe s, holdChange_frameRow ..⟩
  | none =>
    cases c with
    | resetNAssert => exact ⟨_, rfl, .removed (fun _ => false) (by simp [State.holdTable])⟩
    | resetNRelease rate par => exact ⟨_, rfl, .emptied rfl⟩
    | characterReceived p data parityBit stopBit =>
      refine ⟨_, rfl, ?_⟩
      split
      · exact .stays rfl
      · split
        · exact .stays rfl
        · split
          · exact holdChange_goodCharacter ..
          · exact .stays rfl
          · exact .stays rfl
    | framingError p => exact ⟨_, rfl, .stays (by split <;> rfl)⟩
    | gapLimitExpiry p => exact ⟨_, rfl, holdChange_whenReleased (.stays rfl)⟩
    | breakDetected p =>
      refine ⟨_, rfl, holdChange_whenReleased ?_⟩
      split
      · exact .stays rfl
      · exact .removed (fun h => h.owner ≠ p) rfl
    | breakEnd p =>
      refine ⟨_, rfl, ?_⟩
      split
      · exact .stays rfl
      · split <;> exact .stays rfl
    | frameSent p => exact ⟨_, rfl, holdChange_whenReleased (.stays (by dsimp only; split <;> rfl))⟩
    | tSegExpiry p => exact ⟨_, rfl, holdChange_whenReleased (.stays rfl)⟩
    | tAckExpiry p => exact ⟨_, rfl, holdChange_whenReleased (.stays rfl)⟩
    | tNtcExpiry p => exact ⟨_, rfl, holdChange_whenReleased (.stays rfl)⟩
    | leaseExpiry id =>
      refine ⟨_, rfl, holdChange_whenReleased ?_⟩
      split
      · exact .stays rfl
      · exact .removed (fun h => h.id ≠ id) rfl
    | refreshTimerExpiry g => exact ⟨_, rfl, holdChange_whenReleased (.stays (by split <;> simp))⟩
    | inputTransition n level =>
      refine ⟨_, rfl, .stays ?_⟩
      split
      · rfl
      · exact holdTable_applyLine ..
    | measurementExpiry n => exact ⟨_, rfl, holdChange_whenReleased (.stays (by split <;> simp))⟩
    | commit p =>
      refine ⟨_, rfl, holdChange_whenReleased (.stays ?_)⟩
      split
      · exact holdTable_takeCommit ..
      · rfl
    | snapshot p => exact ⟨_, rfl, holdChange_whenReleased (.stays (by split <;> rfl))⟩
    | inputUpdate n =>
      refine ⟨_, rfl, holdChange_whenReleased (.stays ?_)⟩
      split
      · exact holdTable_applyLine ..
      · rfl
    | swapClaim p =>
      refine ⟨_, rfl, holdChange_whenReleased (.stays ?_)⟩
      split
      · dsimp only
        split
        · exact holdTable_bankDone ..
        · split
          · exact holdTable_bankDone ..
          · exact (holdTable_bankDone ..).trans (holdTable_performSwap _)
      · rfl
    | copyClaim p =>
      refine ⟨_, rfl, holdChange_whenReleased (.stays ?_)⟩
      split
      · dsimp only
        split
        · exact holdTable_bankDone ..
        · exact holdTable_bankDone ..
      · rfl
    | startBit p => exact ⟨_, rfl, .stays (by split <;> rfl)⟩
    | _ => simp [frameOf] at hframe

theorem holdChange_of_exec {c : Instr} {s t : State} (h : exec c s = .next t) : HoldChange s t := by
  obtain ⟨t', he, ht'⟩ := holdChange_exec c s
  obtain rfl := Host.Outcome.next.inj (h.symm.trans he)
  exact ht'

/-- A millisecond takes from every lease, below none. -/
theorem holdChange_tick (s : State) : HoldChange s s.tick :=
  holdChange_whenReleased (.relet (fun h => h.lease - 1) (fun _ => .inl (Nat.sub_le _ _)) rfl)

/-- All that a step can do to the Hold Table. -/
theorem holdChange_step {s t : State} (h : step s = .next t) : HoldChange s t := by
  unfold step at h
  split at h
  · exact (holdChange_of_exec h).congr rfl rfl
  · split at h
    · cases h
      exact .stays rfl
    · split at h
      · exact holdChange_of_exec h
      · cases h
        exact holdChange_tick s

/-- Settles O55: whatever a step does to the Hold Table keeps its limits. -/
theorem stepKeepsHoldsSound : Obligations.StepKeepsHoldsSound := fun _ _ hs h => (holdChange_step h).holdsSound hs

end Sys2Proof.Machine
end

section
/-! PROOFS. Valid parameters (R43): what a SWAP checks, which images keep the live bank's words valid, and that every step
makes one of those. -/

namespace Sys2Proof.Machine

/-! ### Valid values -/

/-- The valid values of R43, range of words by range of words. -/
theorem prmValid_iff (i : Nat) (w : Word) :
    prmValid i w = true ↔
      (i < 32 → w.toNat ≤ 255) ∧ (32 ≤ i → i < 40 → w.toNat ≤ 3 ∨ w.toNat = 15) ∧
        (40 ≤ i → i < 48 → w.toNat ≤ 255) ∧ (50 ≤ i → i < 52 → 50 ≤ w.toNat ∧ w.toNat ≤ 10000) ∧
        (i = 52 → 20 ≤ w.toNat ∧ w.toNat ≤ 5000) ∧ (i = 53 → w.toNat ≤ 7) ∧ (i = 54 → w.toNat ≤ 15) := by
  unfold prmValid
  split_ifs <;> simp only [Bool.and_eq_true, Bool.or_eq_true, decide_eq_true_eq, true_iff] <;> omega

/-- A SWAP finds no bad word just when words 0 to 54 of the edit bank are valid (R50). -/
theorem Image.firstInvalid_eq_none {im : Image} :
    im.firstInvalid = none ↔ ∀ i < 55, prmValid i (im.editWord i) = true := by
  simp [Image.firstInvalid, Config.governing]

/-- A SWAP finds the first bad word of the edit bank (R50). -/
theorem Image.firstInvalid_eq_some {im : Image} {i : Nat} (hi : i < 55) (bad : prmValid i (im.editWord i) = false)
    (good : ∀ j < i, prmValid j (im.editWord j) = true) : im.firstInvalid = some i := by
  rw [Image.firstInvalid, List.find?_range_eq_some]
  exact ⟨by simp [bad], List.mem_range.mpr hi, fun j hj => by simp [good j hj]⟩

/-! ### Images that keep the live bank valid -/

/-- An image in canonical form whose live bank holds valid values in words 0 to 54. -/
def Image.sound (im : Image) : Prop := im.wf = true ∧ ∀ i < 55, prmValid i (im.liveWord i) = true

theorem imageSound_iff (s : State) : ImageSound s ↔ s.image.sound := by
  refine and_congr_right fun _ => ?_
  constructor
  · rintro ⟨h0, h32, h40, h50, h52, h52', h53, h54⟩ i hi
    rw [prmValid_iff]
    refine ⟨h0 i, fun hl hu => ?_, fun hl hu => ?_, fun hl hu => ?_, ?_, ?_, ?_⟩
    · simpa [Nat.add_sub_cancel' hl] using h32 (i - 32) (by omega)
    · simpa [Nat.add_sub_cancel' hl] using h40 (i - 40) (by omega)
    · simpa [Nat.add_sub_cancel' hl] using h50 (i - 50) (by omega)
    · rintro rfl; exact ⟨h52, h52'⟩
    · rintro rfl; exact h53
    · rintro rfl; exact h54
  · intro h
    have valid i (hi : i < 55) := (prmValid_iff i _).mp (h i hi)
    obtain ⟨-, -, -, -, h52, -, -⟩ := valid 52 (by decide)
    obtain ⟨-, -, -, -, -, h53, -⟩ := valid 53 (by decide)
    obtain ⟨-, -, -, -, -, -, h54⟩ := valid 54 (by decide)
    refine ⟨fun i hi => ?_, fun i hi => ?_, fun i hi => ?_, fun i hi => ?_, (h52 rfl).1, (h52 rfl).2, h53 rfl, h54 rfl⟩
    · obtain ⟨h0, -⟩ := valid i (by omega)
      exact h0 hi
    · obtain ⟨-, h32, -⟩ := valid (32 + i) (by omega)
      exact h32 (by omega) (by omega)
    · obtain ⟨-, -, h40, -⟩ := valid (40 + i) (by omega)
      exact h40 (by omega) (by omega)
    · obtain ⟨-, -, -, h50, -⟩ := valid (50 + i) (by omega)
      exact h50 (by omega) (by omega)

/-- An image with the live bank of a sound one, word for word, and in canonical form is sound. -/
theorem Image.sound_of_live {im im' : Image} (h : im.sound) (wf : im'.wf = true) (hl : im'.live = im.live)
    (hw : ∀ i, im'.word (.prm im.live) i = im.word (.prm im.live) i) : im'.sound := by
  refine ⟨wf, fun i hi => ?_⟩
  have word : im'.liveWord i = im.liveWord i := by rw [Image.liveWord, hl, hw]; rfl
  rw [word]
  exact h.2 i hi

theorem Image.sound_reset : Image.reset.sound := (imageSound_iff State.reset).mp imageSound_reset

/-- A commit outside the live bank, the only one that is carried out (R9, R45), leaves the live bank. -/
theorem Image.sound_commitWords {im : Image} (h : im.sound) (op : WriteOp) {r : Region} (first count : Nat)
    (buffer : List Word) (hr : r ≠ .prm im.live) : (im.commitWords op r first count buffer).bumpGen.sound :=
  Image.sound_of_live h (Image.wf_bumpGen (Image.wf_commitWords _ _ _ _ _ h.1)) (by simp) fun i => by
    rw [Image.word_bumpGen, Image.word_commitWords_outside _ _ _ _ _ _ _ _ (.inl hr.symm)]

theorem Image.sound_setInput {im : Image} (h : im.sound) (n : Line) (level : Bool) : (im.setInput n level).sound :=
  Image.sound_of_live h (Image.wf_setInput n level h.1) (live_setInput ..) fun i => Image.word_setInput _ _ _ _ (by simp)

/-- The exchange of the banks makes live the words that the SWAP has checked (R50, R51). -/
theorem Image.sound_swapBanks {im : Image} (h : im.sound) (hv : im.firstInvalid = none) : im.swapBanks.sound :=
  ⟨Image.wf_swapBanks h.1, Image.firstInvalid_eq_none.mp hv⟩

theorem Bank.other_ne (b : Bank) : b.other ≠ b := by cases b <;> decide

/-- A COPY writes the edit bank and no other region (R55). -/
theorem Image.word_copyBank_other (im : Image) {r : Region} (i : Nat) (hr : r ≠ .prm im.live.other) :
    im.copyBank.word r i = im.word r i := by rw [Image.word_copyBank, if_neg hr]

@[simp] theorem Image.live_copyBank (im : Image) : im.copyBank.live = im.live := by simp [Image.copyBank]

@[simp] theorem Image.gen_copyBank (im : Image) : im.copyBank.gen = im.gen + 1 := by simp [Image.copyBank]

theorem Image.sound_copyBank {im : Image} (h : im.sound) : im.copyBank.sound :=
  Image.sound_of_live h (Image.wf_copyBank h.1) (Image.live_copyBank im) fun _ =>
    Image.word_copyBank_other _ _ fun e => Bank.other_ne im.live (Region.prm.inj e).symm

/-! ### What a command makes of the image -/

/-- All that a command can do to the image: nothing, the words of a commit outside the live bank (R9, R11), an input bit
(R20), the exchange of the banks once the edit bank is checked (R50, R51), the copy of the live bank (R55), the power-on
image (R6). -/
inductive ImageChange (im : Image) : Image → Prop where
  | stays : ImageChange im im
  | committed (op : WriteOp) {r : Region} (first count : Nat) (buffer : List Word) (hr : r ≠ .prm im.live) :
      ImageChange im (im.commitWords op r first count buffer).bumpGen
  | input (n : Line) (level : Bool) : ImageChange im (im.setInput n level)
  | swapped (hv : im.firstInvalid = none) : ImageChange im im.swapBanks
  | copied : ImageChange im im.copyBank
  | released : ImageChange im Image.reset

theorem ImageChange.sound {im im' : Image} (h : ImageChange im im') (hs : im.sound) : im'.sound := by
  cases h with
  | stays => exact hs
  | committed op first count buffer hr => exact Image.sound_commitWords hs _ _ _ _ hr
  | input n level => exact Image.sound_setInput hs n level
  | swapped hv => exact Image.sound_swapBanks hs hv
  | copied => exact Image.sound_copyBank hs
  | released => exact Image.sound_reset

/-- A commit that passes the checks is not into the live bank (R9). -/
theorem region_of_commitCheck_ok {im : Image} {holds : List Hold} {p : Port} {r : Region} {first count : Nat}
    (h : commitCheck im holds p r first count = .ok) : r ≠ .prm im.live := fun hr => by
  rw [commitCheck_stale _ _ _ _ hr] at h
  cases h

theorem imageChange_commit {p : Port} {s t : State} (h : exec (.commit p) s = .next t) : ImageChange s.image t.image := by
  rcases exec_commit_cases h with rfl | ⟨op, r, first, count, rest, rfl⟩
  · exact .stays
  · rw [image_takeCommit]
    split
    · next hok => exact .committed _ _ _ _ (region_of_commitCheck_ok hok)
    · exact .stays

/-- What an event that acts only while RESET_N is high makes of the image. -/
theorem imageChange_whenReleased {s : State} {f : State → State} (hf : ImageChange s.image (f s).image) :
    ImageChange s.image (s.whenReleased f).image :=
  State.of_whenReleased (motive := fun t => ImageChange s.image t.image) .stays fun _ => hf

theorem imageChange_inputUpdate {n : Line} {s t : State} (h : exec (.inputUpdate n) s = .next t) :
    ImageChange s.image t.image := by
  obtain rfl := Host.Outcome.next.inj h
  refine imageChange_whenReleased ?_
  split
  · rw [image_applyLine, image_report]
    exact .input _ _
  · exact .stays

theorem imageChange_swapClaim {p : Port} {s t : State} (h : exec (.swapClaim p) s = .next t) :
    ImageChange s.image t.image := by
  obtain rfl := Host.Outcome.next.inj h
  refine imageChange_whenReleased ?_
  split
  · dsimp only
    split
    · rw [image_bankDone]
      exact .stays
    · split
      · rw [image_bankDone]
        exact .stays
      · next hv =>
        rw [image_bankDone, image_performSwap]
        exact .swapped hv
  · exact .stays

theorem imageChange_copyClaim {p : Port} {s t : State} (h : exec (.copyClaim p) s = .next t) :
    ImageChange s.image t.image := by
  obtain rfl := Host.Outcome.next.inj h
  refine imageChange_whenReleased ?_
  split
  · dsimp only
    split
    · rw [image_bankDone]
      exact .stays
    · rw [image_bankDone, image_report]
      exact .copied
  · exact .stays

/-- The rows that change the image, one by one; the others leave it. -/
theorem imageChange_exec {c : Instr} {s t : State} (h : exec c s = .next t) : ImageChange s.image t.image := by
  have others (hc : changesImage c = false) : ImageChange s.image t.image := by
    obtain ⟨t', h', kept⟩ := exec_image hc s
    rw [h] at h'
    cases h'
    rw [kept]
    exact .stays
  cases c with
  | commit p => exact imageChange_commit h
  | inputUpdate n => exact imageChange_inputUpdate h
  | swapClaim p => exact imageChange_swapClaim h
  | copyClaim p => exact imageChange_copyClaim h
  | resetNRelease rate par =>
    obtain rfl := Host.Outcome.next.inj h
    exact .released
  | _ => exact others rfl

/-- A step's change of the image is a command's; what time does leaves the image. -/
theorem imageChange_step {s t : State} (h : step s = .next t) : ImageChange s.image t.image := by
  unfold step at h
  split at h
  · next c rest _ => exact imageChange_exec (s := { s with pending := rest }) h
  · split at h
    · cases h
      exact .stays
    · split at h
      · exact imageChange_exec h
      · cases h
        exact State.of_whenReleased (motive := fun t => ImageChange s.image t.image) .stays fun _ => .stays

/-- Settles O54: each change that a step can make keeps the live bank, or makes live a bank whose words were checked. -/
theorem stepKeepsImageSound : Obligations.StepKeepsImageSound := fun s t hs h =>
  (imageSound_iff t).mpr ((imageChange_step h).sound ((imageSound_iff s).mp hs))

end Sys2Proof.Machine
end

section
/-! PROOFS. The SWAP and COPY requests (R48, R83): the claim handed over, and the port pending. -/

namespace Sys2Proof.Machine

/-- A port that is not free sends nothing (R121). -/
theorem PortState.deliver_notFree (ps : PortState) (enabled : Bool) (h : ps.free = false) : ps.deliver enabled = ps := by
  simp [PortState.deliver, PortState.readyToSend, h]

/-- A pending port is not free (R78). -/
theorem PortState.free_of_pending {ps : PortState} (h : ps.bankRequest ≠ none) : ps.free = false := by
  simp [PortState.free, h]

/-- The readying of a port in NOTIFYING stops the wait and takes the waiting NTC back (R126). -/
theorem PortState.readied_notifying {ps : PortState} (h : ps.session = .notifying) :
    ps.readied.notice.tNtc = none ∧ ps.readied.tx.slot = none := by
  simp [PortState.readied, h, PortState.suspendNotice, PortState.takeBack, PortState.leaveNotifying, PortState.modNotice]

/-- A bank request that is performed: the claim waits last, the port is pending and delivers nothing. -/
theorem exec_bankRequest {i : Instr} {p : Port} {tag : Byte} {r : Request} {c : Claim} {s : State}
    (hi : frameOf i = some (p, .req, r.payload tag)) (h : Performs s p (r.payload tag))
    (hr : ∀ u : State, u.perform p (r.payload tag) r = u.performBankOp p (r.payload tag) c) :
    exec i s = .next { s.setPort p { (s.port p).readied with bankRequest := some (.owed (r.payload tag)) } with
      claims := s.claims ++ [[c]] } := by
  have pending (u : State) (hp : (u.port p).bankRequest ≠ none) : u.judge p = u := by
    have : (u.port p).deliver (u.enabled p) = u.port p :=
      PortState.deliver_notFree _ _ (PortState.free_of_pending hp)
    rw [State.judge, State.modPort, this, setPort_port]
  rw [exec_performs hi h, hr, pending _ (by simp [State.performBankOp]), State.performBankOp, modPort_modPort]
  rfl

/-- Settles O34: SWAP and COPY differ in their claim alone. -/
theorem bankRequestHandsItsClaim : Obligations.BankRequestHandsItsClaim := by
  intro p tag s swaps request h
  have rest := PortState.readied_eq (ps := s.port p) h.2.1.1
  have done : exec (if swaps then .swap p tag else .copy p tag) s =
      .next { s.setPort p { (s.port p).readied with bankRequest := some (.owed request) } with
        claims := s.claims ++ [[if swaps then .swap p else .copy p]] } := by
    cases swaps with
    | true => exact exec_bankRequest rfl h fun _ => rfl
    | false => exact exec_bankRequest rfl h fun _ => rfl
  have self : ({ s.setPort p { (s.port p).readied with bankRequest := some (.owed request) } with
      claims := s.claims ++ [[if swaps then .swap p else .copy p]] } : State).port p =
        { (s.port p).readied with bankRequest := some (.owed request) } := port_setPort_same ..
  refine ⟨_, done, rfl, fun q hq => port_setPort_other _ _ _ _ hq, rfl, ?_⟩
  rw [self]
  refine ⟨rfl, ?_, ?_, ?_, ?_, PortState.readied_notifying, ?_⟩
  · rw [rest]
  · rw [rest]; rfl
  · rw [rest]; exact ⟨rfl, rfl, rfl⟩
  · rw [rest]
  · rw [rest]

end Sys2Proof.Machine
end

section
/-! PROOFS. SWAP_CLAIM and COPY_CLAIM: the checks, the reply to the port, and what a refusal leaves (R48 to R50, R55, R58). -/

namespace Sys2Proof.Machine

/-! ### The reply of a bank operation -/

theorem SameNotices.refl (a : NoticeState) : SameNotices a a := ⟨rfl, rfl, rfl⟩

theorem SameNotices.trans {a b c : NoticeState} (h : SameNotices a b) (h' : SameNotices b c) : SameNotices a c := by
  obtain ⟨subs, lost, entries⟩ := h
  obtain ⟨subs', lost', entries'⟩ := h'
  exact ⟨subs'.trans subs, lost'.trans lost, entries'.trans entries⟩

/-- A formed frame touches no notice. -/
theorem PortState.notice_form (ps : PortState) (f : TxFrame) : (ps.form f).notice = ps.notice := by
  unfold PortState.form
  split
  · split
    · rw [PortState.pump_eq, PortState.reportSession_eq]
    · rw [PortState.pump_eq]
  · rw [PortState.pump_eq]

theorem PortState.notice_respond (ps : PortState) (request : List Byte) (code : ReplyCode) (detail : List Byte)
    (final : Bool) : (ps.respond request code detail final).notice = ps.notice := by
  cases final
  · exact PortState.notice_form _ _
  · exact PortState.notice_form _ _

/-- The port once the result of its bank operation has come back, delivery aside (R58, R83, R84). -/
def PortState.answered (ps : PortState) (code : ReplyCode) (detail : List Byte) : BankRequest → PortState
  | .owed request => { ps with bankRequest := none }.respond request code detail true
  | .orphaned => { ps with bankRequest := none }

/-- A port that no bank operation stands for is left as it is. -/
theorem State.bankDone_none {s : State} {p : Port} (code : ReplyCode) (detail : List Byte)
    (hb : (s.port p).bankRequest = none) : s.bankDone p code detail = s := by
  simp [State.bankDone, hb]

/-- The port is answered, and delivery judges after it. -/
theorem State.bankDone_some {s : State} {p : Port} {owed : BankRequest} (code : ReplyCode) (detail : List Byte)
    (hb : (s.port p).bankRequest = some owed) :
    s.bankDone p code detail = (s.setPort p ((s.port p).answered code detail owed)).judge p := by
  cases owed with
  | owed request => exact State.bankDone_owed _ _ hb
  | orphaned => exact State.bankDone_orphaned _ _ hb

theorem PortState.notice_answered (ps : PortState) (code : ReplyCode) (detail : List Byte) (owed : BankRequest) :
    (ps.answered code detail owed).notice = ps.notice := by
  cases owed with
  | owed request => exact PortState.notice_respond ..
  | orphaned => rfl

/-- The result of a bank operation concerns its port alone. -/
theorem onlyPort_bankDone (s : State) (p : Port) (code : ReplyCode) (detail : List Byte) :
    OnlyPort s (s.bankDone p code detail) p := by
  cases hb : (s.port p).bankRequest with
  | none =>
    rw [State.bankDone_none _ _ hb]
    exact ⟨rfl, fun _ _ => rfl⟩
  | some owed =>
    rw [State.bankDone_some _ _ hb]
    refine ⟨rfl, fun q hq => ?_⟩
    rw [State.judge, port_modPort_other _ _ _ _ hq, port_setPort_other _ _ _ _ hq]

/-- The result of a bank operation makes no item. -/
theorem sameNotices_bankDone (s : State) (p : Port) (code : ReplyCode) (detail : List Byte) (q : Port) :
    SameNotices (s.port q).notice ((s.bankDone p code detail).port q).notice := by
  by_cases hq : q = p
  · subst hq
    cases hb : (s.port q).bankRequest with
    | none =>
      rw [State.bankDone_none _ _ hb]
      exact SameNotices.refl _
    | some owed =>
      rw [State.bankDone_some _ _ hb, State.judge, port_modPort_same, port_setPort_same]
      have told := PortState.sameNotices_deliver ((s.port q).answered code detail owed)
      rw [PortState.notice_answered] at told
      exact told _
  · rw [(onlyPort_bankDone s p code detail).2 q hq]
    exact SameNotices.refl _

/-- An idle port is answered by its RSP, in the queue and in the record, or by nothing after a port reset. -/
theorem PortState.answered_idle {ps : PortState} (code : ReplyCode) (detail : List Byte) (owed : BankRequest)
    (ht : ps.transfer = none) :
    let b := ps.answered code detail owed
    b = { ps with tx := b.tx, record := b.record, bankRequest := none } ∧
      (∀ request, owed = .owed request →
        b.tx.frames = ps.tx.joined (rspFrame request code.byte detail) ∧
        b.record = some { request := request, replyKind := .rsp, reply := tagOf request :: code.byte :: detail }) ∧
      (owed = .orphaned → b.record = ps.record ∧ b.tx = ps.tx) := by
  cases owed with
  | owed request =>
    obtain ⟨frames, answer⟩ := PortState.respond_final { ps with bankRequest := none } request code detail ht
    refine ⟨?_, ?_, nofun⟩
    · rw [PortState.answered, answer]
    · rintro _ ⟨⟩
      refine ⟨frames, ?_⟩
      rw [PortState.answered, answer]
  | orphaned => exact ⟨rfl, nofun, fun _ => ⟨rfl, rfl⟩⟩

/-- The result comes back to an idle port (R58, R83, R84). -/
theorem bankAnswers_bankDone {s : State} {p : Port} {owed : BankRequest} (code : ReplyCode) (detail : List Byte)
    (hs : (s.port p).session = .idle) (ht : (s.port p).transfer = none)
    (hb : (s.port p).bankRequest = some owed) :
    BankAnswers (s.port p) ((s.bankDone p code detail).port p) owed code.byte detail := by
  rw [State.bankDone_some _ _ hb, State.judge, port_modPort_same, port_setPort_same]
  generalize State.enabled _ p = enabled
  obtain ⟨rest, answer, silent⟩ := PortState.answered_idle code detail owed ht
  generalize (s.port p).answered code detail owed = b at rest answer silent
  have session : b.session = .idle := by rw [rest]; exact hs
  refine ⟨?_, ?_, fun request ho => ?_, fun ho => ?_⟩
  · rw [PortState.deliver_eq, rest]
  · rw [← session]
    exact PortState.session_deliver b enabled
  · obtain ⟨frames, record⟩ := answer request ho
    refine ⟨?_, ?_⟩
    · rw [PortState.frames_deliver]
      exact frames
    · rw [PortState.deliver_eq]
      exact record
  · obtain ⟨record, tx⟩ := silent ho
    refine ⟨?_, ?_⟩
    · rw [PortState.deliver_eq]
      exact record
    · rw [PortState.frames_deliver, tx]

/-! ### The checks -/

/-- A bank operation meets the lowest id of the other ports' PRM entries (R38, R49). -/
theorem blockingBanks_eq_some {holds : List Hold} {p : Port} {id : Byte}
    (h : LowestId holds (fun h => h.owner ≠ p ∧ h.area = .prm) id) : blockingBanks holds p = some id := by
  rw [← lowestId_filter_eq_some h]
  simp [blockingBanks]

theorem blockingBanks_eq_none {holds : List Hold} {p : Port} (h : ∀ h ∈ holds, h.owner ≠ p → h.area ≠ .prm) :
    blockingBanks holds p = none := by
  rw [blockingBanks, lowestId_eq_none, List.filter_eq_nil_iff]
  simpa using h

/-- The part once the arbiter has taken a claim from among the oldest. -/
abbrev State.afterClaim (s : State) (before after : List Claim) (later : List (List Claim)) : State :=
  { s with claims := claimsLeft before after later }

section
variable {s : State} {p : Port} {before after : List Claim} {later : List (List Claim)}

theorem takeClaim_swap (ho : Oldest s (.swap p) before after later) (hb : ∀ c ∈ before, Claim.isSwapOf p c = false) :
    takeClaim (Claim.isSwapOf p) s.claims = some (.swap p, claimsLeft before after later) := by
  rw [show s.claims = _ from ho]
  exact takeClaim_oldest (by simp [Claim.isSwapOf]) hb

theorem takeClaim_copy (ho : Oldest s (.copy p) before after later) (hb : ∀ c ∈ before, Claim.isCopyOf p c = false) :
    takeClaim (Claim.isCopyOf p) s.claims = some (.copy p, claimsLeft before after later) := by
  rw [show s.claims = _ from ho]
  exact takeClaim_oldest (by simp [Claim.isCopyOf]) hb

/-- A SWAP whose claim stands among the oldest meets another port's PRM hold (R49). -/
theorem exec_swapClaim_held {id : Byte} (hlow : s.resetLow = false) (ho : Oldest s (.swap p) before after later)
    (hb : ∀ c ∈ before, Claim.isSwapOf p c = false) (hh : blockingBanks s.holds p = some id) :
    exec (.swapClaim p) s =
      .next ((s.afterClaim before after later).bankDone p .held (wordBytes (idDetail id))) := by
  simp only [exec, execSwapClaim, State.whenReleased_high hlow, takeClaim_swap ho hb, hh]

/-- A SWAP that meets no hold finds a bad word in the edit bank (R50). -/
theorem exec_swapClaim_invalid {i : Nat} (hlow : s.resetLow = false) (ho : Oldest s (.swap p) before after later)
    (hb : ∀ c ∈ before, Claim.isSwapOf p c = false) (hh : blockingBanks s.holds p = none)
    (hv : s.image.firstInvalid = some i) :
    exec (.swapClaim p) s =
      .next ((s.afterClaim before after later).bankDone p .invalid (wordBytes (BitVec.ofNat 16 i))) := by
  simp only [exec, execSwapClaim, State.whenReleased_high hlow, takeClaim_swap ho hb, hh, hv]

/-- A SWAP that meets no hold and no bad word is performed (R51). -/
theorem exec_swapClaim_passes (hlow : s.resetLow = false) (ho : Oldest s (.swap p) before after later)
    (hb : ∀ c ∈ before, Claim.isSwapOf p c = false) (hh : blockingBanks s.holds p = none)
    (hv : s.image.firstInvalid = none) :
    exec (.swapClaim p) s =
      .next ((s.afterClaim before after later).performSwap.bankDone p .done (genBytes (s.image.gen + 1))) := by
  have gen : (s.afterClaim before after later).performSwap.image.gen = s.image.gen + 1 := by
    rw [image_performSwap]; rfl
  simp only [exec, execSwapClaim, State.whenReleased_high hlow, takeClaim_swap ho hb, hh, hv, gen]

/-- A COPY whose claim stands among the oldest meets another port's PRM hold (R55). -/
theorem exec_copyClaim_held {id : Byte} (hlow : s.resetLow = false) (ho : Oldest s (.copy p) before after later)
    (hb : ∀ c ∈ before, Claim.isCopyOf p c = false) (hh : blockingBanks s.holds p = some id) :
    exec (.copyClaim p) s =
      .next ((s.afterClaim before after later).bankDone p .held (wordBytes (idDetail id))) := by
  simp only [exec, execCopyClaim, State.whenReleased_high hlow, takeClaim_copy ho hb, hh]

/-- A performed COPY with its report, its result aside (R55). -/
def State.performCopy (s : State) : State := { s with image := s.image.copyBank }.report (.copy s.image.differing)

/-- A COPY that meets no hold is performed (R55). -/
theorem exec_copyClaim_passes (hlow : s.resetLow = false) (ho : Oldest s (.copy p) before after later)
    (hb : ∀ c ∈ before, Claim.isCopyOf p c = false) (hh : blockingBanks s.holds p = none) :
    exec (.copyClaim p) s =
      .next ((s.afterClaim before after later).performCopy.bankDone p .done (genBytes (s.image.gen + 1))) := by
  simp only [exec, execCopyClaim, State.whenReleased_high hlow, takeClaim_copy ho hb, hh, image_report,
    Image.gen_copyBank, State.performCopy]

end

/-! ### A refusal -/

theorem isSwapOf_of_port {p : Port} {c : Claim} (h : c.port ≠ some p) : c.isSwapOf p = false :=
  Bool.eq_false_iff.mpr fun hc => h (by rw [Claim.eq_of_isSwapOf hc]; rfl)

theorem isCopyOf_of_port {p : Port} {c : Claim} (h : c.port ≠ some p) : c.isCopyOf p = false :=
  Bool.eq_false_iff.mpr fun hc => h (by rw [Claim.eq_of_isCopyOf hc]; rfl)

/-- Settles O48: the hold check stands before the validation, and a refusal goes straight to the port's reply. -/
theorem bankOperationIsRefused : Obligations.BankOperationIsRefused := by
  refine ⟨?_, prmValid_iff⟩
  intro p s owed swaps before after later hlow ho hb hs ht howed refusedWith
  let s1 := s.afterClaim before after later
  have refused {code : ReplyCode} {detail : Word}
      (he : exec (if swaps then .swapClaim p else .copyClaim p) s = .next (s1.bankDone p code (wordBytes detail))) :
      refusedWith code.byte detail := by
    obtain ⟨frame, others⟩ := onlyPort_bankDone s1 p code (wordBytes detail)
    exact ⟨_, he, by rw [frame], by rw [frame], others, sameNotices_bankDone s1 p code _ p,
      bankAnswers_bankDone (s := s1) code _ hs ht howed⟩
  refine ⟨fun id hid => ?_, ?_⟩
  · have held := blockingBanks_eq_some hid
    cases swaps with
    | true => exact refused (exec_swapClaim_held hlow ho (fun c hc => isSwapOf_of_port (hb c hc)) held)
    | false => exact refused (exec_copyClaim_held hlow ho (fun c hc => isCopyOf_of_port (hb c hc)) held)
  · rintro hh rfl i hi bad good
    exact refused (exec_swapClaim_invalid hlow ho (fun c hc => isSwapOf_of_port (hb c hc)) (blockingBanks_eq_none hh)
      (Image.firstInvalid_eq_some hi bad good))

end Sys2Proof.Machine
end

section
/-! PROOFS. SWAP_CLAIM and COPY_CLAIM that pass: what each makes of the image, the lines, the groups and the ports (R51, R52,
R55, R139, R150). -/

namespace Sys2Proof.Machine

/-! ### The notices of a port at a bank operation -/

/-- All of a port is as it was but its notice slot, its session and its notices. -/
abbrev OnlyDelivery (a b : PortState) : Prop :=
  b = { a with tx := { a.tx with slot := b.tx.slot }, session := b.session, notice := b.notice }

theorem OnlyDelivery.trans {a b c : PortState} (h : OnlyDelivery a b) (h' : OnlyDelivery b c) : OnlyDelivery a c := by
  unfold OnlyDelivery at h h' ⊢
  rw [h', h]

theorem PortState.onlyDelivery_deliver (ps : PortState) (enabled : Bool) : OnlyDelivery ps (ps.deliver enabled) := by
  unfold OnlyDelivery
  rw [← PortState.frames_deliver]
  exact PortState.deliver_eq ps enabled

theorem PortState.onlyDelivery_notify (ps : PortState) (enabled : Bool) (items : List Notice) :
    OnlyDelivery ps (ps.notify enabled items) := PortState.notify_eq ps enabled items

/-- A port whose bit a SWAP clears, with its NTC taken back where one waits (R128). -/
theorem PortState.holdBack_eq (ps : PortState) :
    ps.holdBack =
      if ps.tx.slot.isSome then
        { ps with tx := { ps.tx with slot := none }
                  session := if ps.session = .notifying then .idle else ps.session }
      else ps := by
  unfold PortState.holdBack PortState.takeBack PortState.leaveNotifying
  split
  · dsimp only
    split <;> rfl
  · rfl

theorem PortState.onlyDelivery_holdBack (ps : PortState) : OnlyDelivery ps ps.holdBack := by
  rw [PortState.holdBack_eq]
  split <;> rfl

section
variable (ps : PortState) (falls rises early enabled : Bool) (items : List Notice)

theorem PortState.onlyDelivery_swapNotices :
    OnlyDelivery ps (ps.swapNotices falls rises early enabled items) := by
  have held : OnlyDelivery ps (if falls then ps.holdBack else ps) := by
    split
    · exact PortState.onlyDelivery_holdBack ps
    · rfl
  have sent (a : PortState) (c : Bool) : OnlyDelivery a (if c then a.deliver enabled else a) := by
    split
    · exact PortState.onlyDelivery_deliver a enabled
    · rfl
  exact ((held.trans (sent _ _)).trans (PortState.onlyDelivery_notify _ enabled items)).trans (sent _ _)

/-- A port that is not free is sent nothing at a report. -/
theorem PortState.session_notify (h : ps.free = false) : (ps.notify enabled items).session = ps.session := by
  unfold PortState.notify
  split
  · rw [PortState.deliver_notFree _ _ (by exact h)]
    rfl
  · rfl

/-- A pending port stays IDLE at a SWAP. -/
theorem PortState.session_swapNotices (hb : ps.bankRequest ≠ none) (hs : ps.session = .idle) :
    (ps.swapNotices falls rises early enabled items).session = .idle := by
  have silent (a : PortState) (h : OnlyDelivery ps a) (enabled : Bool) : a.deliver enabled = a :=
    PortState.deliver_notFree a enabled (PortState.free_of_pending (by rw [h]; exact hb))
  have held : OnlyDelivery ps (if falls then ps.holdBack else ps) ∧
      (if falls then ps.holdBack else ps).session = .idle := by
    split
    · refine ⟨PortState.onlyDelivery_holdBack ps, ?_⟩
      rw [PortState.holdBack_eq]
      split <;> simp [hs]
    · exact ⟨rfl, hs⟩
  unfold PortState.swapNotices
  dsimp only
  generalize (if falls then ps.holdBack else ps) = a at held
  obtain ⟨hold, idle⟩ := held
  have told := hold.trans (PortState.onlyDelivery_notify a enabled items)
  rw [silent a hold, ite_self, silent _ told, ite_self,
    PortState.session_notify _ _ _ (PortState.free_of_pending (by rw [hold]; exact hb))]
  exact idle

end

/-- What a bank operation answers is read alike before and after its report. -/
theorem BankAnswers.of_onlyDelivery {a a' b : PortState} {owed : BankRequest} {code : Byte} {detail : List Byte}
    (h : OnlyDelivery a a') (ha : BankAnswers a' b owed code detail) : BankAnswers a b owed code detail := by
  obtain ⟨rest, session, answer, silent⟩ := ha
  refine ⟨?_, session, fun request ho => ?_, fun ho => ?_⟩
  · rw [rest, h]
  · obtain ⟨frames, record⟩ := answer request ho
    refine ⟨?_, record⟩
    rw [frames, h]
    rfl
  · obtain ⟨record, tx⟩ := silent ho
    refine ⟨?_, ?_⟩
    · rw [record, h]
    · rw [tx, h]

/-- The result of a bank operation at its idle port, read against the port before the report. -/
theorem bankAnswers_reported {s u : State} {p : Port} {owed : BankRequest} (code : ReplyCode) (detail : List Byte)
    (told : OnlyDelivery (s.port p) (u.port p)) (idle : (u.port p).session = .idle)
    (ht : (s.port p).transfer = none) (hb : (s.port p).bankRequest = some owed) :
    BankAnswers (s.port p) ((u.bankDone p code detail).port p) owed code.byte detail :=
  BankAnswers.of_onlyDelivery told
    (bankAnswers_bankDone code detail idle (by rw [told]; exact ht) (by rw [told]; exact hb))

/-! ### The filters -/

/-- A line settles: the update state says whether a claim is handed over, held back, or cancels the one held back (R137). -/
theorem LineFilter.settle_line (l : LineFilter) (n : Line) (level : Bool) :
    (l.settle n level).1 =
      { l with
        settled := level, measuring := none
        update := match l.update with
          | .none => .waiting | .waiting => .waitingHeld | .waitingHeld => .waiting } := by
  unfold LineFilter.settle
  cases l.update <;> rfl

theorem LineFilter.settle_claims (l : LineFilter) (n : Line) (level : Bool) :
    (l.settle n level).2 = if l.update = .none then [.inputUpdate n level] else [] := by
  unfold LineFilter.settle
  cases l.update <;> rfl

section
variable {l : LineFilter} {n : Line} {m : Measurement} {former new : Nat}

/-- A filter time that stays, or a line that measures nothing, leaves the filter (R139). -/
theorem LineFilter.newFilterTime_stays (h : l.measuring = none ∨ new = former) :
    l.newFilterTime n former new = (l, []) := by
  unfold LineFilter.newFilterTime
  rcases h with h | h
  · rw [h]
  · cases l.measuring with
    | none => rfl
    | some m => exact if_pos h

/-- A new filter time other than 0 restarts the measurement (R139). -/
theorem LineFilter.newFilterTime_restarts (hm : l.measuring = some m) (hn : new ≠ former) (h0 : new ≠ 0) :
    l.newFilterTime n former new = ({ l with measuring := some { m with held := 0 } }, []) := by
  simp [LineFilter.newFilterTime, hm, hn, h0]

/-- Under a new filter time of 0 the line settles at once (R139). -/
theorem LineFilter.newFilterTime_settles (hm : l.measuring = some m) (hn : new ≠ former) (h0 : new = 0) :
    l.newFilterTime n former new = l.settle n m.candidate := by
  simp only [LineFilter.newFilterTime, hm, if_neg hn, if_pos h0]

/-- The claims of a line at a SWAP: the one it hands over as it settles, if any (R139, R137). -/
theorem LineFilter.newFilterTime_claims :
    (l.newFilterTime n former new).2 =
      if new ≠ former ∧ new = 0 ∧ l.update = .none then
        (l.measuring.map fun m => Claim.inputUpdate n m.candidate).toList
      else [] := by
  cases hm : l.measuring with
  | none => simp [LineFilter.newFilterTime_stays (.inl hm)]
  | some m =>
    by_cases hn : new = former
    · rw [LineFilter.newFilterTime_stays (.inr hn), if_neg fun h => h.1 hn]
    · by_cases h0 : new = 0
      · rw [LineFilter.newFilterTime_settles hm hn h0, LineFilter.settle_claims]
        by_cases hu : l.update = .none
        · rw [if_pos hu, if_pos ⟨hn, h0, hu⟩]
          rfl
        · rw [if_neg hu, if_neg fun h => hu h.2.2]
      · rw [LineFilter.newFilterTime_restarts hm hn h0, if_neg fun h => h0 h.2.1]

end

/-- The claims that lines hand over at a performed SWAP, which come together (R139). -/
def State.swapClaims (s : State) : List Claim :=
  allLines.flatMap fun n => ((s.line n).newFilterTime n (s.image.filterTime n) (s.image.swapBanks.filterTime n)).2

/-- The filter time under the new live bank is the edit bank's word (R133, R139). -/
theorem Image.filterTime_swapBanks (im : Image) (n : Line) :
    im.swapBanks.filterTime n = (im.editWord n.val).toNat := rfl

/-- Filter times differ just when the words do, and are 0 just when the word is. -/
theorem Image.filterTime_changed (im : Image) (n : Line) :
    im.swapBanks.filterTime n ≠ im.filterTime n ↔ im.editWord n.val ≠ im.liveWord n.val :=
  not_congr BitVec.toNat_inj

theorem Image.filterTime_zero (im : Image) (n : Line) :
    im.swapBanks.filterTime n = 0 ↔ im.editWord n.val = 0 := by
  rw [Image.filterTime_swapBanks]
  exact BitVec.toNat_inj (y := 0)

/-- The claims of one line at a performed SWAP. -/
theorem mem_newFilterTime_claims {s : State} {n : Line} {c : Claim} :
    c ∈ ((s.line n).newFilterTime n (s.image.filterTime n) (s.image.swapBanks.filterTime n)).2 ↔
      ∃ m : Measurement, (s.line n).measuring = some m ∧ s.image.editWord n.val ≠ s.image.liveWord n.val ∧
        s.image.editWord n.val = 0 ∧ (s.line n).update = .none ∧ c = .inputUpdate n m.candidate := by
  rw [LineFilter.newFilterTime_claims]
  constructor
  · split
    · next h =>
      obtain ⟨hn, h0, hu⟩ := h
      intro hc
      obtain ⟨m, hm, rfl⟩ := Option.map_eq_some_iff.mp (Option.mem_toList.mp hc)
      exact ⟨m, hm, (Image.filterTime_changed ..).mp hn, (Image.filterTime_zero ..).mp h0, hu, rfl⟩
    · exact nofun
  · rintro ⟨m, hm, hn, h0, hu, rfl⟩
    rw [if_pos ⟨(Image.filterTime_changed ..).mpr hn, (Image.filterTime_zero ..).mpr h0, hu⟩, hm]
    exact List.mem_singleton.mpr rfl

theorem mem_swapClaims {s : State} {c : Claim} :
    c ∈ s.swapClaims ↔ ∃ (n : Line) (m : Measurement), (s.line n).measuring = some m ∧
      s.image.editWord n.val ≠ s.image.liveWord n.val ∧ s.image.editWord n.val = 0 ∧ (s.line n).update = .none ∧
      c = .inputUpdate n m.candidate := by
  simp only [State.swapClaims, allLines, List.mem_flatMap, List.mem_finRange, true_and, mem_newFilterTime_claims]

/-- Each line hands over at most one claim, and a claim names its line. -/
theorem nodup_swapClaims (s : State) : s.swapClaims.Nodup := by
  refine List.nodup_flatMap.mpr ⟨fun n _ => ?_, (List.nodup_finRange 32).imp fun {n k} hnk c hn hk => ?_⟩
  · rw [LineFilter.newFilterTime_claims]
    split
    · cases (s.line n).measuring <;> simp
    · exact List.nodup_nil
  · obtain ⟨m, -, -, -, -, rfl⟩ := mem_newFilterTime_claims.mp hn
    obtain ⟨m', -, -, -, -, he⟩ := mem_newFilterTime_claims.mp hk
    exact hnk (Claim.inputUpdate.inj he).1

/-! ### A performed SWAP -/

theorem supervised_iff {owner refresh : Word} :
    supervised owner refresh = true ↔ owner.toNat ≤ 3 ∧ 1 ≤ refresh.toNat ∧ refresh.toNat ≤ 255 := by
  simp [supervised, and_assoc]

section
variable {x : GroupState} {owner refresh : Word}

/-- A group whose owner and refresh words stay is left as it is (R150). -/
theorem GroupState.reevaluate_stays (ho : owner = x.owner) (hr : refresh = x.refresh) :
    x.reevaluate owner refresh = x := if_pos ⟨ho, hr⟩

theorem GroupState.reevaluate_unsupervised (hc : owner ≠ x.owner ∨ refresh ≠ x.refresh)
    (h : ¬(owner.toNat ≤ 3 ∧ 1 ≤ refresh.toNat ∧ refresh.toNat ≤ 255)) :
    x.reevaluate owner refresh = { mode := .unsupervised, owner := owner, refresh := refresh, timer := none } := by
  rw [GroupState.reevaluate, if_neg (not_and_or.mpr hc), if_neg (supervised_iff.not.mpr h)]

theorem GroupState.reevaluate_armed (hc : owner ≠ x.owner ∨ refresh ≠ x.refresh)
    (h : owner.toNat ≤ 3 ∧ 1 ≤ refresh.toNat ∧ refresh.toNat ≤ 255) (hm : x.mode ≠ .fallback) :
    x.reevaluate owner refresh =
      { mode := .armed, owner := owner, refresh := refresh, timer := some (refresh.toNat * 50) } := by
  rw [GroupState.reevaluate, if_neg (not_and_or.mpr hc), if_pos (supervised_iff.mpr h), if_neg hm]
  rfl

theorem GroupState.reevaluate_fallback (hc : owner ≠ x.owner ∨ refresh ≠ x.refresh)
    (h : owner.toNat ≤ 3 ∧ 1 ≤ refresh.toNat ∧ refresh.toNat ≤ 255) (hm : x.mode = .fallback) :
    x.reevaluate owner refresh = { x with owner := owner, refresh := refresh } := by
  rw [GroupState.reevaluate, if_neg (not_and_or.mpr hc), if_pos (supervised_iff.mpr h), if_pos hm]

end

/-- The lines take the levels of R141, and taking them changes no level. -/
theorem driven_driveLines (s : State) (n : Fin 32) : s.driveLines.driven.get n = s.lineLevel n := by
  simp [State.driveLines, Vector.get_eq_getElem]

theorem lineLevel_driveLines (s : State) (n : Line) : s.driveLines.lineLevel n = s.lineLevel n := by
  simp [State.lineLevel]

section
variable (s : State)

/-- All that the field side of a performed SWAP may change. -/
theorem State.swapField_eq :
    s.swapField =
      { s with
        image := s.image.swapBanks, claims := s.swapField.claims, lines := s.swapField.lines
        groups := s.swapField.groups, driven := s.swapField.driven } := by
  unfold State.swapField State.outputSwap State.inputSwap
  dsimp only
  rw [State.handOver_eq]
  rfl

theorem claims_swapField :
    s.swapField.claims = s.claims ++ if s.swapClaims = [] then [] else [s.swapClaims] := by
  have : s.swapField.claims = if s.swapClaims.isEmpty then s.claims else s.claims ++ [s.swapClaims] :=
    claims_handOver _ _
  rw [this]
  simp only [List.isEmpty_iff]
  split <;> simp

theorem line_swapField (n : Line) :
    s.swapField.line n =
      ((s.line n).newFilterTime n (s.image.filterTime n) (s.image.swapBanks.filterTime n)).1 := by
  rw [State.swapField, State.outputSwap, line_driveLines, line_mapGroups, State.inputSwap, line_handOver]
  simp [State.line, Vector.get_eq_getElem]

/-- A line that measures nothing, or whose filter time stays, is left as it is (R139). -/
theorem line_swapField_stays {n : Line}
    (h : (s.line n).measuring = none ∨ s.image.editWord n.val = s.image.liveWord n.val) :
    s.swapField.line n = s.line n := by
  have stays : (s.line n).measuring = none ∨ s.image.swapBanks.filterTime n = s.image.filterTime n :=
    h.imp_right (congrArg BitVec.toNat)
  rw [line_swapField, LineFilter.newFilterTime_stays stays]

section
variable {n : Line} {m : Measurement} (hm : (s.line n).measuring = some m)
  (hn : s.image.editWord n.val ≠ s.image.liveWord n.val)
include hm hn

/-- A running measurement restarts under a new filter time (R139). -/
theorem line_swapField_restarts (h0 : s.image.editWord n.val ≠ 0) :
    s.swapField.line n = { s.line n with measuring := some { m with held := 0 } } := by
  rw [line_swapField, LineFilter.newFilterTime_restarts hm ((Image.filterTime_changed ..).mpr hn)
    ((Image.filterTime_zero ..).not.mpr h0)]

/-- A running measurement settles at once under a new filter time of 0 (R139). -/
theorem line_swapField_settles (h0 : s.image.editWord n.val = 0) :
    s.swapField.line n = ((s.line n).settle n m.candidate).1 := by
  rw [line_swapField, LineFilter.newFilterTime_settles hm ((Image.filterTime_changed ..).mpr hn)
    ((Image.filterTime_zero ..).mpr h0)]

end

theorem group_swapField (g : Group) :
    s.swapField.group g =
      (s.group g).reevaluate (s.image.editWord (32 + g.val)) (s.image.editWord (40 + g.val)) := by
  rw [State.swapField, State.outputSwap, group_driveLines, group_mapGroups, image_inputSwap, State.inputSwap,
    group_handOver]
  rfl

/-- After a SWAP each line shows what R141 says under the new live bank. -/
theorem driven_swapField (n : Fin 32) :
    s.swapField.driven.get n =
      if (s.swapField.group (groupOfLine n)).mode = .fallback then
        (s.image.editWord (48 + n.val / 16)).getLsbD (n.val % 16)
      else (s.image.word .out (n.val / 16)).getLsbD (n.val % 16) := by
  have level : s.swapField.driven.get n = s.swapField.lineLevel n := by
    rw [State.swapField, State.outputSwap, driven_driveLines, lineLevel_driveLines]
  rw [level, State.lineLevel, State.swapField_eq]
  rfl

/-- A performed SWAP is its field side, the count of choices, and the notices of each port. -/
theorem State.performSwap_eq :
    s.performSwap = { s.swapField with ports := s.performSwap.ports, choices := s.choices + 1 } := rfl

/-- At a SWAP a port's NTC is taken back, its report handled and its delivery resumed as its bits say (R53, R128, R129). -/
theorem port_performSwap (q : Port) :
    s.performSwap.port q =
      (s.port q).swapNotices (bitFalls s.image s.image.swapBanks q) (bitRises s.image s.image.swapBanks q)
        (Config.sendBeforeSwapReport s.choices q.val) (s.image.swapBanks.enables q)
        (changeItems (.swap s.image.differing) (s.image.gen + 1) q (s.port q).notice.subs) := by
  have kept : ({ s.swapField with choices := s.choices + 1 } : State).port q = s.port q := by
    rw [State.swapField_eq]
    rfl
  rw [State.performSwap, port_mapPorts, kept]
  rfl

end

theorem Image.word_swapBanks (im : Image) (r : Region) (i : Nat) : im.swapBanks.word r i = im.word r i := by
  rcases r with _ | _ | _ | b
  · rfl
  · rfl
  · rfl
  · cases b <;> rfl

/-- Settles O47: the part but for the ports, the port of the SWAP, and the others. -/
theorem swapExchangesTheBanks : Obligations.SwapExchangesTheBanks := by
  intro p s owed before after later hlow ho hb hh hv hs ht howed
  let s1 := s.afterClaim before after later
  obtain ⟨frame, others⟩ := onlyPort_bankDone s1.performSwap p .done (genBytes (s.image.gen + 1))
  have told q : OnlyDelivery (s.port q) (s1.performSwap.port q) := by
    rw [port_performSwap]
    exact PortState.onlyDelivery_swapNotices _ _ _ _ _ _
  have idle : (s1.performSwap.port p).session = .idle := by
    have pending : (s1.port p).bankRequest ≠ none := fun h => by cases howed.symm.trans h
    rw [port_performSwap]
    exact PortState.session_swapNotices _ _ _ _ _ _ pending hs
  have answer := bankAnswers_reported .done (genBytes (s.image.gen + 1)) (told p) idle ht howed
  refine ⟨_, exec_swapClaim_passes hlow ho hb (blockingBanks_eq_none hh) (Image.firstInvalid_eq_none.mpr hv), ?_⟩
  generalize s1.performSwap.bankDone p .done (genBytes (s.image.gen + 1)) = t at frame others answer
  rw [State.performSwap_eq] at frame
  have image : t.image = s.image.swapBanks := by rw [frame, State.swapField_eq]
  have group g : t.group g = s1.swapField.group g := by rw [frame]; rfl
  have line n : t.line n = s1.swapField.line n := by rw [frame]; rfl
  refine ⟨?_, by rw [image]; rfl, by rw [image]; rfl, fun r i => by rw [image, Image.word_swapBanks], fun g => ?_, fun n => ?_,
    fun n => ⟨fun h => ?_, fun m hm hn => ⟨fun h0 => ?_, fun h0 => ?_⟩⟩,
    ⟨s1.swapClaims, ?_, nodup_swapClaims s1, fun c => mem_swapClaims⟩, answer, fun q hq => ?_⟩
  · rw [frame, State.swapField_eq]
  · rw [group, group_swapField]
    exact ⟨GroupState.reevaluate_stays, fun hc => ⟨GroupState.reevaluate_unsupervised hc,
      GroupState.reevaluate_armed hc, GroupState.reevaluate_fallback hc⟩⟩
  · rw [group, frame]
    exact driven_swapField s1 n
  · exact (line n).trans (line_swapField_stays s1 h)
  · exact (line n).trans (line_swapField_restarts s1 hm hn h0)
  · exact (line n).trans ((line_swapField_settles s1 hm hn h0).trans (LineFilter.settle_line ..))
  · rw [frame]
    exact claims_swapField s1
  · rw [others q hq]
    exact told q

/-! ### A performed COPY -/

/-- A COPY leaves the live bank's notice-enable bits. -/
theorem Image.enables_copyBank (im : Image) (q : Port) : im.copyBank.enables q = im.enables q :=
  Image.enables_congr (Image.live_copyBank im)
    (fun _ => Image.word_copyBank_other _ _ fun e => Bank.other_ne im.live (Region.prm.inj e).symm) q

/-- The report of a COPY at a port, under its bit, which stays (R55). -/
theorem port_performCopy (s : State) (q : Port) :
    s.performCopy.port q =
      (s.port q).notify (s.enabled q)
        (changeItems (.copy s.image.differing) (s.image.gen + 1) q (s.port q).notice.subs) := by
  have bits := Image.enables_copyBank s.image q
  rw [State.performCopy, port_report]
  simp only [State.enabled, bits, Image.gen_copyBank]
  rfl

/-- Settles O49: the part but for the ports, the port of the COPY, and the others. -/
theorem copyFillsTheEditBank : Obligations.CopyFillsTheEditBank := by
  intro p s owed before after later hlow ho hb hh hs ht howed
  let s1 := s.afterClaim before after later
  obtain ⟨frame, others⟩ := onlyPort_bankDone s1.performCopy p .done (genBytes (s.image.gen + 1))
  have told q : OnlyDelivery (s.port q) (s1.performCopy.port q) := by
    rw [port_performCopy]
    exact PortState.onlyDelivery_notify _ _ _
  have idle : (s1.performCopy.port p).session = .idle := by
    have pending : (s.port p).free = false := PortState.free_of_pending (by simp [howed])
    rw [port_performCopy]
    exact (PortState.session_notify _ _ _ pending).trans hs
  have answer := bankAnswers_reported .done (genBytes (s.image.gen + 1)) (told p) idle ht howed
  refine ⟨_, exec_copyClaim_passes hlow ho hb (blockingBanks_eq_none hh), ?_⟩
  generalize s1.performCopy.bankDone p .done (genBytes (s.image.gen + 1)) = t at frame others answer
  have image : t.image = s.image.copyBank := by rw [frame]; rfl
  refine ⟨by rw [frame]; rfl, by rw [frame]; rfl, ?_, ?_, fun i => ?_, fun r i hr => ?_, answer,
    fun q hq => ?_⟩
  · rw [image, Image.live_copyBank]
  · rw [image, Image.gen_copyBank]
  · rw [image, Image.word_copyBank, if_pos rfl]; rfl
  · rw [image, Image.word_copyBank_other _ _ hr]
  · rw [others q hq]
    exact told q

end Sys2Proof.Machine
end

section
/-! PROOFS. The reports of SWAP_CLAIM and COPY_CLAIM (R53 to R55, R115, R128, R129): the items they make, and what a port
makes of them as its notice-enable bit stays, falls or rises. -/

namespace Sys2Proof.Machine

/-! ### The indices concerned -/

/-- The report of a bank operation with the differing indices of the banks (R53, R55). -/
def bankReport (swaps : Bool) (indices : List Nat) : Report := if swaps then .swap indices else .copy indices

/-- The indices of a subscription's range at which the banks differ, if the operation concerns it (R53, R55). -/
def Image.concerned (im : Image) (swaps : Bool) (sub : Subscription) : List Nat :=
  (List.range 128).filter fun k =>
    sub.area = .prm && (swaps || sub.edit) && sub.first ≤ k && k ≤ sub.last && im.liveWord k ≠ im.editWord k

/-- A SWAP concerns every PRM subscription, a COPY those with EDIT (R53, R55). -/
theorem swaps_or_edit_iff {swaps edit : Bool} : (swaps || edit) = true ↔ (swaps = false → edit = true) := by
  cases swaps <;> simp

theorem Image.mem_concerned {im : Image} {swaps : Bool} {sub : Subscription} {k : Nat} :
    k ∈ im.concerned swaps sub ↔
      sub.area = .prm ∧ (swaps = false → sub.edit = true) ∧ sub.first ≤ k ∧ k ≤ sub.last ∧ k < 128 ∧
        im.liveWord k ≠ im.editWord k := by
  simp only [Image.concerned, List.mem_filter, List.mem_range, Bool.and_eq_true, decide_eq_true_eq,
    swaps_or_edit_iff]
  tauto

/-- From the first to the last of a list of indices, if there is one. -/
def ends (indices : List Nat) : Option (Nat × Nat) :=
  match indices.head?, indices.getLast? with
  | some low, some high => some (low, high)
  | _, _ => none

theorem map_ends {α : Type} (indices : List Nat) (f : Nat → Nat → α) :
    (ends indices).map (fun range => f range.1 range.2) =
      match indices.head?, indices.getLast? with
      | some low, some high => some (f low high)
      | _, _ => none := by
  unfold ends
  cases indices.head? <;> cases indices.getLast? <;> rfl

/-- A bank operation reaches a subscription with the differing indices in its range (R115). -/
theorem reaches_bankReport (im : Image) (swaps : Bool) (q : Port) (sub : Subscription) :
    (bankReport swaps im.differing).reaches q sub = ends (im.concerned swaps sub) := by
  have reaches : (bankReport swaps im.differing).reaches q sub =
      if sub.area = .prm ∧ (swaps || sub.edit) = true then spanWithin im.differing sub.first sub.last else none := by
    cases swaps <;> simp [bankReport, Report.reaches]
  rw [reaches]
  split
  · next h =>
    have inside : im.differing.filter (fun i => sub.first ≤ i && i ≤ sub.last) = im.concerned swaps sub := by
      rw [Image.differing, List.filter_filter, Image.concerned]
      simp [h.1, h.2]
    rw [← inside]
    rfl
  · next h =>
    have empty : im.concerned swaps sub = [] := by
      rw [List.eq_nil_iff_forall_not_mem]
      intro k hk
      obtain ⟨area, edit, -⟩ := Image.mem_concerned.mp hk
      exact h ⟨area, swaps_or_edit_iff.mpr edit⟩
    rw [empty]
    rfl

/-- A member that no other stands before under the order of the list heads it. -/
theorem head?_of_pairwise {R : Nat → Nat → Prop} {l : List Nat} {a : Nat} (h : l.Pairwise R) (ha : a ∈ l)
    (least : ∀ k ∈ l, ¬R k a) : l.head? = some a := by
  cases l with
  | nil => cases ha
  | cons b l =>
    rcases List.mem_cons.mp ha with rfl | ha
    · rfl
    · exact absurd ((List.pairwise_cons.mp h).1 a ha) (least b List.mem_cons_self)

theorem Image.pairwise_concerned (im : Image) (swaps : Bool) (sub : Subscription) :
    (im.concerned swaps sub).Pairwise (· < ·) := List.pairwise_lt_range.filter _

/-- The lowest and the highest index concerned are the ends of the range of the item. -/
theorem Image.ends_concerned {im : Image} {swaps : Bool} {sub : Subscription} {low high : Nat}
    (hl : low ∈ im.concerned swaps sub) (hh : high ∈ im.concerned swaps sub)
    (between : ∀ k ∈ im.concerned swaps sub, low ≤ k ∧ k ≤ high) : ends (im.concerned swaps sub) = some (low, high) := by
  have rising := Image.pairwise_concerned im swaps sub
  have first := head?_of_pairwise rising hl fun k hk => by have := between k hk; omega
  have last := head?_of_pairwise (List.pairwise_reverse.mpr rising) (List.mem_reverse.mpr hh) fun k hk => by
    have := between k (List.mem_reverse.mp hk)
    omega
  rw [List.head?_reverse] at last
  simp only [ends, first, last]

/-! ### The items -/

/-- The item of a bank operation for the subscription in place `i`, from its lowest to its highest index (R115, R76). -/
def bankItem (swaps : Bool) (gen : Gen) (i : Fin 4) (low high : Nat) : Notice :=
  { kind := .change, refId := BitVec.ofNat 8 (i.val + 1), area := .prm, first := low, last := high, gen := gen,
    cause := if swaps then 9 else 10, sent := none }

theorem cause_bankReport (swaps : Bool) (indices : List Nat) :
    (bankReport swaps indices).cause = if swaps then 9 else 10 := by cases swaps <;> rfl

section
variable {im : Image} {swaps : Bool} {gen : Gen} {q : Port} {subs : Vector (Option Subscription) 4} {i : Fin 4}
  {sub : Subscription}

theorem changeItem_bankReport (hs : subs.get i = some sub) :
    changeItem (bankReport swaps im.differing) gen q subs i =
      (ends (im.concerned swaps sub)).map fun range => bankItem swaps gen i range.1 range.2 := by
  cases he : ends (im.concerned swaps sub) with
  | none =>
    refine changeItem_eq_none fun sub' h => ?_
    rw [hs] at h
    cases h
    rw [reaches_bankReport, he]
  | some range =>
    have area : sub.area = .prm := by
      cases hc : im.concerned swaps sub with
      | nil => rw [hc] at he; cases he
      | cons k _ => exact (Image.mem_concerned.mp (hc ▸ List.mem_cons_self : k ∈ im.concerned swaps sub)).1
    rw [changeItem_eq_some hs ((reaches_bankReport ..).trans he), area, cause_bankReport]
    rfl

theorem changeItem_bankReport_none (h : ∀ sub, subs.get i = some sub → im.concerned swaps sub = []) :
    changeItem (bankReport swaps im.differing) gen q subs i = none :=
  changeItem_eq_none fun sub hs => by rw [reaches_bankReport, h sub hs]; rfl

end

/-! ### A port at the report -/

/-- A port with something to send, and free to, is in NOTIFYING once delivery has judged (R121). -/
theorem PortState.session_deliver_ready {ps : PortState} (h : ps.readyToSend = true) :
    (ps.deliver true).session = .notifying := by
  have queued : ps.notice.queue ≠ [] := by
    simp only [PortState.readyToSend, Bool.and_eq_true, Bool.not_eq_true', List.isEmpty_eq_false_iff] at h
    exact h.2
  rw [PortState.deliver, if_pos (by simpa using h), PortState.send]
  split
  · next hq => exact absurd hq queued
  · split <;> rfl

theorem PortState.deliver_notReady {ps : PortState} (enabled : Bool) (h : ps.readyToSend = false) :
    ps.deliver enabled = ps := by simp [PortState.deliver, h]

/-- Delivery that has judged judges alike a second time. -/
theorem PortState.deliver_deliver (ps : PortState) : (ps.deliver true).deliver true = ps.deliver true := by
  cases h : ps.readyToSend with
  | false => rw [PortState.deliver_notReady _ h, PortState.deliver_notReady _ h]
  | true => exact PortState.deliver_notFree _ _ (by simp [PortState.free, PortState.session_deliver_ready h])

/-- Delivery makes no entry: with no unsent CHANGE of a subscription before it, there is none after it. -/
theorem PortState.unsent_deliver {ps : PortState} {id : Byte} (enabled : Bool)
    (h : ∀ x ∈ ps.notice.queue, ¬(x.kind = .change ∧ x.sent = none ∧ x.refId = id)) :
    ∀ x ∈ (ps.deliver enabled).notice.queue, ¬(x.kind = .change ∧ x.sent = none ∧ x.refId = id) := by
  unfold PortState.deliver PortState.send PortState.placeNtc
  split
  · split
    · exact h
    · next e rest hq =>
      rw [hq] at h
      split
      · rwa [← hq] at h
      · intro x hx
        rcases List.mem_cons.mp hx with rfl | hx
        · simp
        · exact h x (List.mem_cons_of_mem e hx)
  · exact h

/-- An item queued between two judgings of delivery is queued. -/
theorem Queued.of_same {a a' b' b : NoticeState} {item : Notice} (ha : SameNotices a a') (h : Queued a' b' item)
    (hb : SameNotices b' b) : Queued a b item := by
  obtain ⟨subs, lost, entries⟩ := ha
  obtain ⟨subs', lost', entries'⟩ := hb
  obtain ⟨joins, h⟩ := h
  have length : a'.queue.length = a.queue.length := by simpa using congrArg List.length entries
  rw [length, lost, entries, ← lost', ← entries'] at h
  exact ⟨subs'.trans (joins.trans subs), h⟩

section
variable (ps : PortState) (early : Bool) (items : List Notice)

/-- With its bit at 0 after the operation a port is told nothing, and its NTC is held back where the bit fell (R117, R128). -/
theorem PortState.swapNotices_off (falls : Bool) :
    ps.swapNotices falls false early false items = if falls then ps.holdBack else ps := by
  exact PortState.notify_nothing (if falls then ps.holdBack else ps) (enabled := false) (items := items) (.inl rfl)

/-- Under a bit that stays at 1 a port is told the items (R115). -/
theorem PortState.swapNotices_stays : ps.swapNotices false false early true items = ps.notify true items := rfl

/-- Where the bit rises and no item is made, delivery is resumed, in either order (R129). -/
theorem PortState.swapNotices_resumes : ps.swapNotices false true early true [] = ps.deliver true := by
  cases early
  · rfl
  · exact PortState.deliver_deliver ps

theorem PortState.notice_holdBack : ps.holdBack.notice = ps.notice := by
  rw [PortState.holdBack_eq]
  split <;> rfl

/-- A single new item is queued as R119 says, in either order with the resumption of delivery (R129). -/
theorem PortState.queued_swapNotices (rises : Bool) {item : Notice} (hsent : item.sent = none)
    (hnew : ∀ x ∈ ps.notice.queue, ¬(x.kind = .change ∧ x.sent = none ∧ x.refId = item.refId)) :
    Queued ps.notice (ps.swapNotices false rises early true [item]).notice item := by
  have told (a : PortState) (ha : SameNotices ps.notice a.notice)
      (hnew : ∀ x ∈ a.notice.queue, ¬(x.kind = .change ∧ x.sent = none ∧ x.refId = item.refId)) :
      Queued ps.notice (a.notify true [item]).notice item :=
    (PortState.told_notify a hsent hnew).2.of_same ha (SameNotices.refl _)
  have resumed {b : PortState} (h : Queued ps.notice b.notice item) : Queued ps.notice (b.deliver true).notice item :=
    h.of_same (SameNotices.refl _) (PortState.sameNotices_deliver b true)
  cases rises with
  | false => exact told ps (SameNotices.refl _) hnew
  | true =>
    cases early with
    | false => exact resumed (told ps (SameNotices.refl _) hnew)
    | true => exact resumed (told _ (PortState.sameNotices_deliver ps true) (PortState.unsent_deliver true hnew))

end

/-! ### The report of a bank operation -/

/-- The notice-enable bit of a port in the bank that is live after a bank operation (R44, R54). -/
def Image.bitAfter (im : Image) (swaps : Bool) (q : Port) : Bool :=
  (if swaps then im.editWord 54 else im.liveWord 54).getLsbD q.val

/-- What a bank operation that passes makes of a port before its result comes back: its bit goes from what it was to
that of the bank then live, and the report makes its items. -/
def PortState.afterReport (ps : PortState) (im : Image) (swaps early : Bool) (q : Port) : PortState :=
  ps.swapNotices (im.enables q && !im.bitAfter swaps q) (!im.enables q && im.bitAfter swaps q) early
    (im.bitAfter swaps q) (changeItems (bankReport swaps im.differing) (im.gen + 1) q ps.notice.subs)

/-- A bank operation that passes the checks: the report at each port, then the result. -/
theorem exec_bankOperation_passes {s : State} {p : Port} {swaps : Bool} {before after : List Claim}
    {later : List (List Claim)} (hlow : s.resetLow = false)
    (ho : Oldest s (if swaps then .swap p else .copy p) before after later) (hb : ∀ c ∈ before, c.port ≠ some p)
    (hh : ∀ h ∈ s.holds, h.owner ≠ p → h.area ≠ .prm)
    (hv : swaps = true → ∀ i < 55, prmValid i (s.image.editWord i) = true) :
    ∃ u : State, exec (if swaps then .swapClaim p else .copyClaim p) s =
        .next (u.bankDone p .done (genBytes (s.image.gen + 1))) ∧
      ∀ q, ∃ early, u.port q = (s.port q).afterReport s.image swaps early q := by
  have free := blockingBanks_eq_none hh
  cases swaps with
  | true =>
    refine ⟨_, exec_swapClaim_passes hlow ho (fun c hc => isSwapOf_of_port (hb c hc)) free
      (Image.firstInvalid_eq_none.mpr (hv rfl)), fun q => ⟨_, port_performSwap _ q⟩⟩
  | false =>
    refine ⟨_, exec_copyClaim_passes hlow ho (fun c hc => isCopyOf_of_port (hb c hc)) free, fun q => ⟨false, ?_⟩⟩
    have bit : s.image.bitAfter false q = s.image.enables q := rfl
    rw [port_performCopy, PortState.afterReport, bit, Bool.and_not_self, Bool.not_and_self]
    rfl

section
variable {ps : PortState} {im : Image} {swaps early : Bool} {q : Port}

theorem PortState.onlyDelivery_afterReport : OnlyDelivery ps (ps.afterReport im swaps early q) :=
  PortState.onlyDelivery_swapNotices _ _ _ _ _ _

/-- A port whose bit is 0 after the operation is told nothing, and held back where the bit was 1 (R117, R128). -/
theorem PortState.afterReport_off (hbit : im.bitAfter swaps q = false) :
    ps.afterReport im swaps early q = if im.enables q then ps.holdBack else ps := by
  rw [PortState.afterReport, hbit, Bool.not_false, Bool.and_true, Bool.and_false, PortState.swapNotices_off]

theorem PortState.sameNotices_afterReport_off (hbit : im.bitAfter swaps q = false) :
    SameNotices ps.notice (ps.afterReport im swaps early q).notice := by
  rw [PortState.afterReport_off hbit]
  split
  · rw [PortState.notice_holdBack]
    exact SameNotices.refl _
  · exact SameNotices.refl _

/-- Where the bit falls, an NTC still in the slot is taken back, with the port at rest (R128). -/
theorem PortState.afterReport_falls (hbit : im.bitAfter swaps q = false) (he : im.enables q = true)
    (hslot : ps.tx.slot.isSome = true) :
    ps.afterReport im swaps early q =
      { ps with tx := { ps.tx with slot := none }
                session := if ps.session = .notifying then .idle else ps.session } := by
  rw [PortState.afterReport_off hbit, if_pos he, PortState.holdBack_eq, if_pos hslot]

theorem PortState.afterReport_off_stays (hbit : im.bitAfter swaps q = false)
    (h : im.enables q = false ∨ ps.tx.slot = none) : ps.afterReport im swaps early q = ps := by
  rw [PortState.afterReport_off hbit, PortState.holdBack_eq]
  rcases h with h | h <;> simp [h]

/-- A port whose bit is 1 before and after the operation (R115). -/
theorem PortState.afterReport_on (hbit : im.bitAfter swaps q = true) (he : im.enables q = true) :
    ps.afterReport im swaps early q =
      ps.notify true (changeItems (bankReport swaps im.differing) (im.gen + 1) q ps.notice.subs) := by
  rw [PortState.afterReport, hbit, he]
  exact PortState.swapNotices_stays ..

/-- A port with its bit at 1 and no subscription concerned: as it was, or with delivery resumed (R129). -/
theorem PortState.afterReport_silent (hbit : im.bitAfter swaps q = true)
    (hnone : ∀ i sub, ps.notice.subs.get i = some sub → im.concerned swaps sub = []) :
    ps.afterReport im swaps early q = if im.enables q then ps else ps.deliver true := by
  have items : changeItems (bankReport swaps im.differing) (im.gen + 1) q ps.notice.subs = [] :=
    List.filterMap_eq_nil_iff.mpr fun i _ => changeItem_bankReport_none (hnone i)
  cases he : im.enables q with
  | true =>
    rw [PortState.afterReport_on hbit he, items]
    exact PortState.notify_nothing _ (.inr rfl)
  | false =>
    rw [PortState.afterReport, hbit, he, items]
    exact PortState.swapNotices_resumes ..

theorem PortState.sameNotices_afterReport_silent (hbit : im.bitAfter swaps q = true)
    (hnone : ∀ i sub, ps.notice.subs.get i = some sub → im.concerned swaps sub = []) :
    SameNotices ps.notice (ps.afterReport im swaps early q).notice := by
  rw [PortState.afterReport_silent hbit hnone]
  split
  · exact SameNotices.refl _
  · exact PortState.sameNotices_deliver _ _

theorem PortState.afterReport_silent_stays (hbit : im.bitAfter swaps q = true)
    (hnone : ∀ i sub, ps.notice.subs.get i = some sub → im.concerned swaps sub = [])
    (h : im.enables q = true ∨ ps.readyToSend = false) : ps.afterReport im swaps early q = ps := by
  rw [PortState.afterReport_silent hbit hnone]
  rcases h with h | h
  · exact if_pos h
  · rw [PortState.deliver_notReady _ h]
    exact ite_self _

/-- Where the bit rises, delivery is resumed (R128). -/
theorem PortState.afterReport_resumes (hbit : im.bitAfter swaps q = true)
    (hnone : ∀ i sub, ps.notice.subs.get i = some sub → im.concerned swaps sub = [])
    (he : im.enables q = false) (hready : ps.readyToSend = true) :
    (ps.afterReport im swaps early q).session = .notifying := by
  rw [PortState.afterReport_silent hbit hnone, he]
  exact PortState.session_deliver_ready hready

/-- A port with its bit at 1 and one subscription concerned, of which no entry is unsent (R115, R119). -/
theorem PortState.queued_afterReport {i : Fin 4} {sub : Subscription} {low high : Nat}
    (hbit : im.bitAfter swaps q = true) (hsub : ps.notice.subs.get i = some sub)
    (hends : ends (im.concerned swaps sub) = some (low, high))
    (hother : ∀ j sub2, j ≠ i → ps.notice.subs.get j = some sub2 → im.concerned swaps sub2 = [])
    (hnew : ∀ x ∈ ps.notice.queue, ¬(x.kind = .change ∧ x.sent = none ∧ x.refId = BitVec.ofNat 8 (i.val + 1))) :
    Queued ps.notice (ps.afterReport im swaps early q).notice (bankItem swaps (im.gen + 1) i low high) := by
  have items : changeItems (bankReport swaps im.differing) (im.gen + 1) q ps.notice.subs =
      [bankItem swaps (im.gen + 1) i low high] :=
    filterMap_places_single (by rw [changeItem_bankReport hsub, hends]; rfl)
      fun j hj => changeItem_bankReport_none fun sub2 => hother j sub2 hj
  rw [PortState.afterReport, hbit, items, Bool.not_true, Bool.and_false]
  exact PortState.queued_swapNotices _ _ _ rfl hnew

end

/-- Settles O50: the ports by the bit under the bank then live, by the bit before, and by the subscriptions concerned. -/
theorem bankOperationIsReported : Obligations.BankOperationIsReported := by
  intro p s swaps before after later hlow ho hb hh hv concerns bit
  obtain ⟨u, he, reported⟩ := exec_bankOperation_passes hlow ho hb hh hv
  have same q := sameNotices_bankDone u p .done (genBytes (s.image.gen + 1)) q
  have other := (onlyPort_bankDone u p .done (genBytes (s.image.gen + 1))).2
  have unconcerned sub (h : ∀ k, ¬concerns sub k) : s.image.concerned swaps sub = [] :=
    List.eq_nil_iff_forall_not_mem.mpr fun k hk => h k (Image.mem_concerned.mp hk)
  generalize u.bankDone p .done (genBytes (s.image.gen + 1)) = t at he same other
  refine ⟨t, he, fun q hbit => ?_, fun q hbit hnone => ?_, fun q hbit hon => ?_,
    fun q i sub low high hbit hsub hlow hhigh between hother hnew => ?_⟩
  all_goals
    obtain ⟨early, hu⟩ := reported q
    have same := same q
    have other := other q
    rw [hu] at same other
  · refine ⟨(PortState.sameNotices_afterReport_off hbit).trans same, fun hq => ?_⟩
    rw [other hq]
    exact ⟨PortState.afterReport_falls hbit, PortState.afterReport_off_stays hbit⟩
  · have silent i sub (hsub : (s.port q).notice.subs.get i = some sub) : s.image.concerned swaps sub = [] :=
      unconcerned sub fun k => hnone i sub k hsub
    refine ⟨(PortState.sameNotices_afterReport_silent hbit silent).trans same, fun hq => ?_⟩
    rw [other hq]
    refine ⟨fun h => PortState.afterReport_silent_stays hbit silent (h.imp_right fun h => ?_),
      fun hoff hfree hpaused hqueue => ?_⟩
    · rcases h with h | h | h <;> simp [PortState.readyToSend, h]
    · have session := PortState.afterReport_resumes (early := early) hbit silent hoff
        (by simp [PortState.readyToSend, hfree, hpaused, hqueue])
      exact ⟨session, session ▸ PortState.onlyDelivery_afterReport⟩
  · have told := PortState.receives_notify (s.port q)
      (changeItems (bankReport swaps s.image.differing) (s.image.gen + 1) q (s.port q).notice.subs)
    rw [← PortState.afterReport_on hbit hon] at told
    refine (congrArg (Receives _ _) (List.filterMap_congr fun i _ => ?_)).mp (told.trans_same same)
    cases hsub : (s.port q).notice.subs.get i with
    | none => exact changeItem_bankReport_none fun sub h => by rw [hsub] at h; cases h
    | some sub => exact (changeItem_bankReport hsub).trans (map_ends _ (bankItem swaps (s.image.gen + 1) i))
  · have queued := PortState.queued_afterReport (early := early) hbit hsub
      (Image.ends_concerned (Image.mem_concerned.mpr hlow) (Image.mem_concerned.mpr hhigh)
        fun k hk => between k (Image.mem_concerned.mp hk))
      (fun j sub2 hj hsub2 => unconcerned sub2 fun k => hother j sub2 k hj hsub2) hnew
    refine ⟨queued.of_same (SameNotices.refl _) same, fun hq => ?_⟩
    rw [other hq]
    exact PortState.onlyDelivery_afterReport

end Sys2Proof.Machine
end

section
/-! PROOFS. The frames of a port (R61, R70, R71): what each operation on a port keeps of them, what the arrival of a frame
can reach at all (R67), then each command, then a step. -/

namespace Sys2Proof.Machine

/-! ### The transmitter -/

/-- Delivery and the notices leave the frame in progress and the session frames. -/
theorem OnlyDelivery.framesSound {a b : PortState} (h : OnlyDelivery a b) (ha : a.framesSound) : b.framesSound := by
  rw [show b = _ from h]
  exact ha

theorem PortState.framesSound_deliver {ps : PortState} (enabled : Bool) (h : ps.framesSound) :
    (ps.deliver enabled).framesSound := (PortState.onlyDelivery_deliver ps enabled).framesSound h

theorem PortState.framesSound_notify {ps : PortState} (enabled : Bool) (items : List Notice) (h : ps.framesSound) :
    (ps.notify enabled items).framesSound := (PortState.onlyDelivery_notify ps enabled items).framesSound h

/-- A frame that is begun is on the line with the bytes of its kind and payload. -/
theorem PortState.framesSound_pump {ps : PortState} (h : ps.framesSound) : ps.pump.framesSound := by
  obtain ⟨hq, hs⟩ := h
  refine ⟨(PortState.length_queue_pump ps).trans hq, ?_⟩
  unfold PortState.pump
  split
  · exact hs
  · split
    · simp [Transmitter.start]
    · split
      · simp [Transmitter.start]
      · exact hs

theorem PortState.framesSound_reportSession {ps : PortState} (f : TxFrame) (h : ps.framesSound) :
    (ps.reportSession f).framesSound := by
  rw [PortState.reportSession_eq]
  exact h

/-- A frame that joins a full queue pushes out the oldest, so the queue is no longer than it was. -/
theorem PortState.framesSound_form {ps : PortState} (f : TxFrame) (h : ps.framesSound) : (ps.form f).framesSound := by
  obtain ⟨hq, hs⟩ := h
  by_cases room : ps.tx.queue.length < 4
  · rw [PortState.form_room ps f room]
    refine PortState.framesSound_pump ⟨?_, hs⟩
    simp only [List.length_append, List.length_singleton]
    omega
  · cases hqueue : ps.tx.queue with
    | nil => simp [hqueue] at room
    | cons oldest rest =>
      simp only [hqueue, List.length_cons] at hq room
      rw [PortState.form_full ps f oldest rest hqueue (by omega)]
      refine PortState.framesSound_pump (PortState.framesSound_reportSession oldest ⟨?_, hs⟩)
      simp only [List.length_append, List.length_singleton]
      omega

theorem PortState.framesSound_respond {ps : PortState} (request : List Byte) (code : ReplyCode) (detail : List Byte)
    (final : Bool) (h : ps.framesSound) : (ps.respond request code detail final).framesSound := by
  cases final <;> exact PortState.framesSound_form _ h

theorem PortState.framesSound_finish {ps : PortState} (t : Transfer) (outcome : FinOutcome) (gen : Gen) (detail : Byte)
    (h : ps.framesSound) : (ps.finish t outcome gen detail).framesSound := PortState.framesSound_form _ h

theorem PortState.framesSound_frameSent {ps : PortState} (wait : Nat) (h : ps.framesSound) :
    (ps.frameSent wait).framesSound := by
  obtain ⟨hq, -⟩ := id h
  unfold PortState.frameSent PortState.reportSent
  split
  · have cut : { ps with tx := { ps.tx with sending := none } }.framesSound := ⟨hq, nofun⟩
    refine PortState.framesSound_pump ?_
    split
    · unfold PortState.reportNotice
      split <;> exact cut
    · exact PortState.framesSound_reportSession _ cut
  · exact h

/-- A port whose transmitter is cut and emptied. -/
theorem PortState.framesSound_of_cut {ps : PortState} (h : ps.tx = Transmitter.reset) : ps.framesSound := by
  simp [PortState.framesSound, h, Transmitter.reset]

/-! ### Notices -/

theorem PortState.framesSound_leaveNotifying {ps : PortState} (h : ps.framesSound) : ps.leaveNotifying.framesSound := by
  unfold PortState.leaveNotifying
  split <;> exact h

theorem PortState.framesSound_takeNta {ps : PortState} (payload : List Byte) (h : ps.framesSound) :
    (ps.takeNta payload).framesSound := by
  unfold PortState.takeNta
  split
  · split
    · split
      · exact PortState.framesSound_leaveNotifying (ps := (ps.modNotice _).takeBack) h
      · exact h
    · exact h
  · exact h

theorem PortState.framesSound_noticeExpiry {ps : PortState} (e : Notice) (limit : Nat) (enabled : Bool)
    (h : ps.framesSound) : (ps.noticeExpiry e limit enabled).framesSound := by
  unfold PortState.noticeExpiry
  dsimp only
  split
  · split
    · exact h
    · exact PortState.framesSound_leaveNotifying (ps := ps.modNotice _) h
  · exact PortState.framesSound_leaveNotifying (ps := ps.modNotice _) h

theorem PortState.framesSound_subscribe {ps : PortState} (request : List Byte) (areaCode flags : Byte)
    (first count : Nat) (h : ps.framesSound) : (ps.subscribe request areaCode flags first count).framesSound := by
  have refused code detail : (ps.refuse request code detail).framesSound := PortState.framesSound_respond _ _ _ _ h
  unfold PortState.subscribe
  split
  · exact refused _ _
  · split
    · exact refused _ _
    · split
      · exact refused _ _
      · dsimp only
        split
        · exact refused _ _
        · split
          · exact refused _ _
          · exact PortState.framesSound_respond (ps := ps.modNotice _) _ _ _ _ h

theorem PortState.framesSound_unsubscribe {ps : PortState} (request : List Byte) (subId : Byte) (h : ps.framesSound) :
    (ps.unsubscribe request subId).framesSound := by
  have refused code detail : (ps.refuse request code detail).framesSound := PortState.framesSound_respond _ _ _ _ h
  unfold PortState.unsubscribe
  split
  · exact refused _ _
  · split
    · exact refused _ _
    · exact PortState.framesSound_respond (ps := ps.modNotice _) _ _ _ _ h

/-! ### Sessions -/

theorem PortState.framesSound_busy {ps : PortState} (request : List Byte) (h : ps.framesSound) :
    (ps.busy request).framesSound := by
  unfold PortState.busy
  split
  · split
    · exact h
    · exact PortState.framesSound_respond _ _ _ _ h
  · exact PortState.framesSound_respond _ _ _ _ h

theorem PortState.framesSound_repeatedDat {ps : PortState} (tag seq : Byte) (h : ps.framesSound) :
    (ps.repeatedDat tag seq).framesSound := by
  unfold PortState.repeatedDat
  split
  · split
    · exact PortState.framesSound_form _ h
    · exact h
  · exact h

theorem PortState.framesSound_takeAck {ps : PortState} (payload : List Byte) (h : ps.framesSound) :
    (ps.takeAck payload).framesSound := by
  unfold PortState.takeAck
  split
  · exact h
  · dsimp only
    split
    · exact PortState.framesSound_form _ h
    · exact PortState.framesSound_finish _ _ _ _ h

theorem PortState.framesSound_retrySegment {ps : PortState} (t : Transfer) (h : ps.framesSound) :
    (ps.retrySegment t).framesSound := by
  unfold PortState.retrySegment
  dsimp only
  split
  · exact PortState.framesSound_form _ h
  · exact PortState.framesSound_finish _ _ _ _ h

theorem PortState.framesSound_takeNak {ps : PortState} (payload : List Byte) (h : ps.framesSound) :
    (ps.takeNak payload).framesSound := by
  unfold PortState.takeNak
  split
  · exact h
  · exact PortState.framesSound_retrySegment _ h

theorem PortState.framesSound_segmentFault {ps : PortState} (t : Transfer) (h : ps.framesSound) :
    (ps.segmentFault t).framesSound := by
  unfold PortState.segmentFault
  dsimp only
  split
  · exact PortState.framesSound_form _ h
  · exact PortState.framesSound_finish _ _ _ _ h

theorem PortState.framesSound_takeAbt {ps : PortState} (payload : List Byte) (h : ps.framesSound) :
    (ps.takeAbt payload).framesSound := by
  unfold PortState.takeAbt
  split
  · split
    · exact PortState.framesSound_finish _ _ _ _ h
    · exact h
  · exact h

theorem PortState.framesSound_takeSnapshot {ps : PortState} (t : Transfer) (gen : Gen) (words : List Word)
    (h : ps.framesSound) : (ps.takeSnapshot t gen words).framesSound :=
  PortState.framesSound_form _ (PortState.framesSound_respond _ _ _ _ h)

theorem PortState.framesSound_charError {ps : PortState} (h : ps.framesSound) : ps.charError.framesSound := by
  unfold PortState.charError
  dsimp only
  split <;> exact h

/-! ### What a frame reaches -/

/-- What no frame changes: everything but the ports, the claims and the Hold Table with its counter. -/
def State.beyondFrames (s : State) :
    (Bool × BitVec 3 × Bool) × Image × Vector LineFilter 32 × Vector GroupState 8 × Vector Bool 32 × List Instr × Nat :=
  ((s.resetLow, s.rateCode, s.parity), s.image, s.lines, s.groups, s.driven, s.pending, s.choices)

theorem eq_of_beyondFrames {s t : State} (h : t.beyondFrames = s.beyondFrames) :
    t = { s with ports := t.ports, claims := t.claims, holds := t.holds, nextId := t.nextId } := by
  simp only [State.beyondFrames, Prod.mk.injEq] at h
  obtain ⟨⟨resetLow, rateCode, parity⟩, image, lines, groups, driven, pending, choices⟩ := h
  cases s
  cases t
  simp_all

/-- What a frame at port `p` makes of the part (R67): of the ports that one alone changes, whose frames stay sound, and
besides them at most the claims and the Hold Table. -/
structure FrameEffect (p : Port) (s t : State) : Prop where
  beyond : t.beyondFrames = s.beyondFrames
  others : ∀ q, q ≠ p → t.port q = s.port q
  sound : (s.port p).framesSound → (t.port p).framesSound

theorem FrameEffect.refl (p : Port) (s : State) : FrameEffect p s s := ⟨rfl, fun _ _ => rfl, id⟩

theorem FrameEffect.trans {p : Port} {s t u : State} (h : FrameEffect p s t) (h' : FrameEffect p t u) :
    FrameEffect p s u :=
  ⟨h'.beyond.trans h.beyond, fun q hq => (h'.others q hq).trans (h.others q hq), h'.sound ∘ h.sound⟩

/-- A change of the port that the frame arrives at. -/
theorem FrameEffect.modPort {p : Port} {s t : State} {f : PortState → PortState} (h : FrameEffect p s t)
    (hf : ∀ ps, ps.framesSound → (f ps).framesSound) : FrameEffect p s (t.modPort p f) :=
  h.trans ⟨rfl, fun q hq => port_modPort_other _ _ _ _ hq, fun hs => by rw [port_modPort_same]; exact hf _ hs⟩

theorem FrameEffect.judge {p : Port} {s t : State} (h : FrameEffect p s t) : FrameEffect p s (t.judge p) :=
  h.modPort fun _ => PortState.framesSound_deliver _

theorem FrameEffect.handOver {p : Port} {s t : State} (cs : List Claim) (h : FrameEffect p s t) :
    FrameEffect p s (t.handOver cs) :=
  h.trans ⟨by rw [State.handOver_eq]; rfl, fun q _ => port_handOver t cs q, fun hs => by rwa [port_handOver]⟩

/-- A change of the Hold Table. -/
theorem FrameEffect.ofHolds {p : Port} {s t : State} (hb : t.beyondFrames = s.beyondFrames) (hp : t.ports = s.ports) :
    FrameEffect p s t := by
  have same (q : Port) : t.port q = s.port q := by simp only [State.port, hp]
  exact ⟨hb, fun q _ => same q, fun hs => by rwa [same]⟩

theorem frameEffect_performTransfer (s : State) (p : Port) (request : List Byte) (op : TransferOp)
    (areaCode flags : Byte) (first count : Nat) :
    FrameEffect p s (s.performTransfer p request op areaCode flags first count) := by
  have here := FrameEffect.refl p s
  unfold State.performTransfer
  split
  · exact here.modPort fun _ => PortState.framesSound_respond _ _ _ _
  · split
    · exact here.modPort fun _ => PortState.framesSound_respond _ _ _ _
    · dsimp only
      split
      · exact (here.modPort fun _ hs => by exact hs).handOver _
      · exact here.modPort fun _ hs => PortState.framesSound_respond _ _ _ _ (by exact hs)

theorem frameEffect_performHold (s : State) (p : Port) (request : List Byte) (areaCode : Byte) (first count : Nat)
    (lease : Word) : FrameEffect p s (s.performHold p request areaCode first count lease) := by
  have here := FrameEffect.refl p s
  unfold State.performHold
  split
  · exact here.modPort fun _ => PortState.framesSound_respond _ _ _ _
  · split
    · exact here.modPort fun _ => PortState.framesSound_respond _ _ _ _
    · exact FrameEffect.modPort (.ofHolds rfl rfl) fun _ => PortState.framesSound_respond _ _ _ _

theorem frameEffect_performRelease (s : State) (p : Port) (request : List Byte) (id : Byte) :
    FrameEffect p s (s.performRelease p request id) := by
  have here := FrameEffect.refl p s
  unfold State.performRelease
  split
  · exact here.modPort fun _ => PortState.framesSound_respond _ _ _ _
  · split
    · exact here.modPort fun _ => PortState.framesSound_respond _ _ _ _
    · exact FrameEffect.modPort (.ofHolds rfl rfl) fun _ => PortState.framesSound_respond _ _ _ _

theorem frameEffect_performRenew (s : State) (p : Port) (request : List Byte) (id : Byte) (lease : Word) :
    FrameEffect p s (s.performRenew p request id lease) := by
  have here := FrameEffect.refl p s
  unfold State.performRenew
  split
  · exact here.modPort fun _ => PortState.framesSound_respond _ _ _ _
  · split
    · exact here.modPort fun _ => PortState.framesSound_respond _ _ _ _
    · split
      · exact here.modPort fun _ => PortState.framesSound_respond _ _ _ _
      · exact FrameEffect.modPort (.ofHolds rfl rfl) fun _ => PortState.framesSound_respond _ _ _ _

theorem frameEffect_performBankOp (s : State) (p : Port) (request : List Byte) (c : Claim) :
    FrameEffect p s (s.performBankOp p request c) := by
  have pending : FrameEffect p s (s.modPort p fun ps => { ps with bankRequest := some (.owed request) }) :=
    (FrameEffect.refl p s).modPort fun _ hs => by exact hs
  exact pending.handOver _

theorem frameEffect_perform (s : State) (p : Port) (request : List Byte) (r : Request) :
    FrameEffect p s (s.perform p request r) := by
  have here := FrameEffect.refl p s
  cases r with
  | read => exact frameEffect_performTransfer ..
  | write => exact frameEffect_performTransfer ..
  | mwrite => exact frameEffect_performTransfer ..
  | hold => exact frameEffect_performHold ..
  | release => exact frameEffect_performRelease ..
  | renew => exact frameEffect_performRenew ..
  | subscribe => exact here.modPort fun _ => PortState.framesSound_subscribe _ _ _ _ _
  | unsubscribe => exact here.modPort fun _ => PortState.framesSound_unsubscribe _ _
  | swap => exact frameEffect_performBankOp ..
  | copy => exact frameEffect_performBankOp ..
  | ping => exact here.modPort fun _ => PortState.framesSound_respond _ _ _ _

theorem frameEffect_judgeRequest (s : State) (p : Port) (request : List Byte) :
    FrameEffect p s (s.judgeRequest p request) := by
  have here := FrameEffect.refl p s
  unfold State.judgeRequest
  split
  · exact here.modPort fun _ => PortState.framesSound_form _
  · split
    · exact here.modPort fun _ => PortState.framesSound_respond _ _ _ _
    · split
      · exact here.modPort fun _ => PortState.framesSound_respond _ _ _ _
      · exact frameEffect_perform ..

theorem frameEffect_takeReq (s : State) (p : Port) (request : List Byte) : FrameEffect p s (s.takeReq p request) := by
  have here := FrameEffect.refl p s
  unfold State.takeReq
  split
  · exact here
  · split
    · have suspended : FrameEffect p s (s.modPort p PortState.suspendNotice) :=
        here.modPort fun ps hs => PortState.framesSound_leaveNotifying (ps := (ps.modNotice _).takeBack) hs
      exact suspended.trans (frameEffect_judgeRequest ..)
    · split
      · exact here.modPort fun _ => PortState.framesSound_busy _
      · exact frameEffect_judgeRequest ..
    · exact here.modPort fun _ => PortState.framesSound_busy _

theorem frameEffect_receiveSegment (s : State) (p : Port) (t : Transfer) (seq : Byte) (data : List Byte) :
    FrameEffect p s (s.receiveSegment p t seq data) := by
  have timed : FrameEffect p s (s.modPort p fun ps => { ps with tSeg := some t.wait }) :=
    (FrameEffect.refl p s).modPort fun _ hs => by exact hs
  unfold State.receiveSegment State.storeSegment State.handCommit
  dsimp only
  split
  · split
    · exact timed.modPort fun _ hs => PortState.framesSound_form _ (by exact hs)
    · exact ((timed.modPort fun _ hs => by exact hs).modPort fun _ hs => by exact hs).handOver _
  · split
    · exact timed.modPort fun _ => PortState.framesSound_form _
    · exact timed.modPort fun _ => PortState.framesSound_segmentFault _

theorem frameEffect_takeDat (s : State) (p : Port) (payload : List Byte) : FrameEffect p s (s.takeDat p payload) := by
  have here := FrameEffect.refl p s
  unfold State.takeDat
  split
  · dsimp only
    split
    · exact here.modPort fun _ => PortState.framesSound_repeatedDat _ _
    · exact here.modPort fun _ => PortState.framesSound_repeatedDat _ _
    · split
      · exact frameEffect_receiveSegment ..
      · exact here
    · exact here
  · exact here

theorem frameEffect_takeFrame (s : State) (p : Port) (kind : MasterKind) (payload : List Byte) :
    FrameEffect p s (s.takeFrame p kind payload) := by
  have here := FrameEffect.refl p s
  cases kind with
  | req => exact frameEffect_takeReq ..
  | dat => exact frameEffect_takeDat ..
  | ack => exact here.modPort fun _ => PortState.framesSound_takeAck _
  | nak => exact here.modPort fun _ => PortState.framesSound_takeNak _
  | abt => exact here.modPort fun _ => PortState.framesSound_takeAbt _
  | nta => exact here.modPort fun _ => PortState.framesSound_takeNta _

/-- The arrival of a frame, with the delivery that judges after it (R67, R127). -/
theorem frameEffect_arrive (s : State) (p : Port) (kind : MasterKind) (payload : List Byte) :
    FrameEffect p s (s.arrive p kind payload) := by
  have cleared : FrameEffect p s (s.modPort p fun ps => ps.modNotice fun ns => { ns with paused := false }) :=
    (FrameEffect.refl p s).modPort fun _ hs => by exact hs
  exact (cleared.trans (frameEffect_takeFrame ..)).judge

theorem frameEffect_frameRow (s : State) (p : Port) (kind : MasterKind) (payload : List Byte) :
    FrameEffect p s (s.frameRow p kind payload) :=
  State.of_whenReleased (motive := FrameEffect p s) (.refl p s) fun _ => by
    split
    · exact .refl p s
    · exact frameEffect_arrive ..

/-- Settles O52: a frame row is the arrival of its frame, and reaches no more than that does. -/
theorem masterReachesOnlyItsPort : Obligations.MasterReachesOnlyItsPort := by
  intro i p kind payload s t hframe he
  obtain rfl := Host.Outcome.next.inj ((exec_of_frameOf hframe s).symm.trans he)
  have reached := frameEffect_frameRow s p kind payload
  exact ⟨reached.others, eq_of_beyondFrames reached.beyond⟩

/-! ### The commands and the frames -/

/-- Every port whose frames were sound has sound frames still. -/
structure FramesKept (s t : State) : Prop where
  sound : ∀ p, (s.port p).framesSound → (t.port p).framesSound

theorem FramesKept.refl (s : State) : FramesKept s s := ⟨fun _ => id⟩

theorem FramesKept.trans {s t u : State} (h : FramesKept s t) (h' : FramesKept t u) : FramesKept s u :=
  ⟨fun p hs => h'.sound p (h.sound p hs)⟩

/-- What is kept goes with the ports alone. -/
theorem FramesKept.congr {s s' t : State} (h : FramesKept s' t) (hp : s'.ports = s.ports) : FramesKept s t :=
  ⟨fun p hs => h.sound p (by simpa only [State.port, hp] using hs)⟩

/-- A change of the part outside its ports. -/
theorem FramesKept.ofPorts {s t : State} (h : t.ports = s.ports) : FramesKept s t :=
  ⟨fun p hs => by simpa only [State.port, h] using hs⟩

theorem FrameEffect.framesKept {p : Port} {s t : State} (h : FrameEffect p s t) : FramesKept s t :=
  ⟨fun q hs => by
    by_cases hq : q = p
    · subst hq
      exact h.sound hs
    · rwa [h.others q hq]⟩

theorem FramesKept.modPort {s t : State} {p : Port} {f : PortState → PortState} (h : FramesKept s t)
    (hf : ∀ ps, ps.framesSound → (f ps).framesSound) : FramesKept s (t.modPort p f) :=
  h.trans ((FrameEffect.refl p t).modPort hf).framesKept

theorem FramesKept.setPort {s t : State} {p : Port} {ps : PortState} (h : FramesKept s t)
    (hp : (t.port p).framesSound → ps.framesSound) : FramesKept s (t.setPort p ps) :=
  h.trans ⟨fun q hs => by
    rw [port_setPort]
    split
    · next hq => subst hq; exact hp hs
    · exact hs⟩

theorem FramesKept.judge {s t : State} (p : Port) (h : FramesKept s t) : FramesKept s (t.judge p) :=
  h.modPort fun _ => PortState.framesSound_deliver _

theorem FramesKept.report {s t : State} (r : Report) (h : FramesKept s t) : FramesKept s (t.report r) :=
  h.trans ⟨fun q hs => by
    rw [port_report]
    exact PortState.framesSound_notify _ _ hs⟩

theorem FramesKept.reportItem {s t : State} (q : Port) (item : Notice) (h : FramesKept s t) :
    FramesKept s (t.reportItem q item) := h.modPort fun _ => PortState.framesSound_notify _ _

theorem FramesKept.commitDone {s t : State} (p : Port) (outcome : FinOutcome) (gen : Gen) (detail : Byte)
    (h : FramesKept s t) : FramesKept s (t.commitDone p outcome gen detail) := by
  unfold State.commitDone
  dsimp only
  split
  · exact h.setPort fun hs => PortState.framesSound_finish _ _ _ _ hs
  · exact (h.setPort fun hs => by exact hs).judge p
  · exact h

theorem FramesKept.bankDone {s t : State} (p : Port) (code : ReplyCode) (detail : List Byte) (h : FramesKept s t) :
    FramesKept s (t.bankDone p code detail) := by
  unfold State.bankDone
  dsimp only
  split
  · exact (h.setPort fun hs => PortState.framesSound_respond _ _ _ _ (by exact hs)).judge p
  · exact (h.setPort fun hs => by exact hs).judge p
  · exact h

theorem framesKept_applyCommit (s : State) (p : Port) (op : WriteOp) (r : Region) (first count : Nat) :
    FramesKept s (s.applyCommit p op r first count) := by
  refine FramesKept.report _ ?_
  split
  · exact .ofPorts (by simp [State.outputCommit])
  · exact .ofPorts rfl

theorem framesKept_takeCommit (s : State) (p : Port) (op : WriteOp) (r : Region) (first count : Nat) :
    FramesKept s (s.takeCommit p op r first count) := by
  unfold State.takeCommit
  cases commitCheck s.image s.holds p r first count with
  | ok => exact (framesKept_applyCommit ..).commitDone _ _ _ _
  | held id => exact (FramesKept.refl s).commitDone _ _ _ _
  | stale => exact (FramesKept.refl s).commitDone _ _ _ _

theorem framesKept_performSwap (s : State) : FramesKept s s.performSwap :=
  ⟨fun q hs => by
    rw [port_performSwap]
    exact (PortState.onlyDelivery_swapNotices ..).framesSound hs⟩

theorem framesKept_enterFallback (s : State) (g : Group) : FramesKept s (s.enterFallback g) := by
  unfold State.enterFallback
  dsimp only
  split
  · exact FramesKept.reportItem _ _ (.ofPorts (by simp))
  · exact .ofPorts (by simp)

theorem FramesKept.applyLine {s t : State} (n : Line) (r : LineFilter × List Claim) (h : FramesKept s t) :
    FramesKept s (t.applyLine n r) := h.trans (.ofPorts (by simp [State.applyLine]))

theorem framesKept_goodCharacter (s : State) (p : Port) (data : Byte) : FramesKept s (s.goodCharacter p data) := by
  have taken : FramesKept s (s.modPort p fun ps => ps.modRx fun rx =>
      rx.complete ((s.port p).rx.assembly.take data).1) := (FramesKept.refl s).modPort fun _ hs => by exact hs
  unfold State.goodCharacter
  dsimp only
  split
  · exact taken
  · exact taken.modPort fun _ hs => by exact hs
  · exact taken.trans (frameEffect_arrive ..).framesKept

theorem framesKept_whenReleased {s : State} {f : State → State} (hf : FramesKept s (f s)) :
    FramesKept s (s.whenReleased f) :=
  State.of_whenReleased (motive := FramesKept s) (.refl s) fun _ => hf

/-- Every command keeps sound frames sound. -/
theorem framesKept_exec (c : Instr) (s : State) : ∃ t, exec c s = .next t ∧ FramesKept s t := by
  have here := FramesKept.refl s
  cases hframe : frameOf c with
  | some frame => exact ⟨_, exec_of_frameOf hframe s, (frameEffect_frameRow ..).framesKept⟩
  | none =>
    cases c with
    | resetNAssert =>
      refine ⟨_, rfl, ⟨fun p _ => PortState.framesSound_of_cut ?_⟩⟩
      simp [State.port, Vector.get_eq_getElem, PortState.stopped]
    | resetNRelease rate par =>
      refine ⟨_, exec_resetNRelease s rate par, ⟨fun p _ => PortState.framesSound_of_cut ?_⟩⟩
      rw [port_released]
      rfl
    | characterReceived p data parityBit stopBit =>
      refine ⟨_, rfl, ?_⟩
      split
      · exact here.modPort fun _ hs => by exact hs
      · split
        · exact here
        · split
          · exact framesKept_goodCharacter ..
          · exact here.modPort fun _ => PortState.framesSound_charError
          · exact here.modPort fun _ hs => by exact hs
    | framingError p =>
      refine ⟨_, rfl, ?_⟩
      split
      · exact here.modPort fun _ hs => by exact hs
      · refine here.modPort fun ps hs => ?_
        split
        · exact hs
        · exact PortState.framesSound_charError hs
    | gapLimitExpiry p =>
      refine ⟨_, rfl, framesKept_whenReleased (here.modPort fun ps hs => ?_)⟩
      split <;> exact hs
    | breakDetected p =>
      refine ⟨_, rfl, framesKept_whenReleased ?_⟩
      split
      · exact here
      · exact (here.modPort fun _ _ => PortState.framesSound_of_cut rfl).trans (.ofPorts rfl)
    | breakEnd p =>
      refine ⟨_, rfl, ?_⟩
      split
      · exact here.modPort fun _ hs => by exact hs
      · split
        · exact (here.modPort fun _ hs => PortState.framesSound_pump (by exact hs)).judge p
        · exact here
    | frameSent p =>
      refine ⟨_, rfl, framesKept_whenReleased ?_⟩
      dsimp only
      split
      · exact (here.setPort fun hs => PortState.framesSound_frameSent _ (PortState.framesSound_pump hs)).judge p
      · exact here
    | tSegExpiry p =>
      refine ⟨_, rfl, framesKept_whenReleased (here.modPort fun ps hs => ?_)⟩
      split
      · exact PortState.framesSound_finish _ _ _ _ (by exact hs)
      · exact hs
    | tAckExpiry p =>
      refine ⟨_, rfl, framesKept_whenReleased (here.modPort fun ps hs => ?_)⟩
      split
      · exact PortState.framesSound_retrySegment _ (by exact hs)
      · exact hs
    | tNtcExpiry p =>
      refine ⟨_, rfl, framesKept_whenReleased (here.modPort fun ps hs => ?_)⟩
      split
      · exact PortState.framesSound_noticeExpiry _ _ _ hs
      · exact hs
    | leaseExpiry id =>
      refine ⟨_, rfl, framesKept_whenReleased ?_⟩
      split
      · exact here
      · exact FramesKept.reportItem _ _ (.ofPorts rfl)
    | refreshTimerExpiry g =>
      refine ⟨_, rfl, framesKept_whenReleased ?_⟩
      split
      · exact framesKept_enterFallback s g
      · exact here
    | inputTransition n level =>
      refine ⟨_, rfl, ?_⟩
      split
      · exact .ofPorts rfl
      · exact here.applyLine _ _
    | measurementExpiry n =>
      refine ⟨_, rfl, framesKept_whenReleased ?_⟩
      split
      · exact here.applyLine _ _
      · exact here
    | commit p =>
      refine ⟨_, rfl, framesKept_whenReleased ?_⟩
      split
      · exact (framesKept_takeCommit ..).congr rfl
      · exact here
    | snapshot p =>
      refine ⟨_, rfl, framesKept_whenReleased ?_⟩
      split
      · refine FramesKept.modPort (.ofPorts rfl) fun ps hs => ?_
        split
        · exact PortState.framesSound_takeSnapshot _ _ _ hs
        · exact hs
      · exact here
    | inputUpdate n =>
      refine ⟨_, rfl, framesKept_whenReleased ?_⟩
      split
      · exact FramesKept.applyLine _ _ (FramesKept.report _ (.ofPorts rfl))
      · exact here
    | swapClaim p =>
      refine ⟨_, rfl, framesKept_whenReleased ?_⟩
      split
      · dsimp only
        split
        · exact FramesKept.bankDone _ _ _ (.ofPorts rfl)
        · split
          · exact FramesKept.bankDone _ _ _ (.ofPorts rfl)
          · exact FramesKept.bankDone _ _ _ ((framesKept_performSwap _).congr rfl)
      · exact here
    | copyClaim p =>
      refine ⟨_, rfl, framesKept_whenReleased ?_⟩
      split
      · dsimp only
        split
        · exact FramesKept.bankDone _ _ _ (.ofPorts rfl)
        · exact FramesKept.bankDone _ _ _ (FramesKept.report _ (.ofPorts rfl))
      · exact here
    | startBit p =>
      refine ⟨_, rfl, ?_⟩
      split
      · exact here.modPort fun _ hs => by exact hs
      · refine here.modPort fun ps hs => ?_
        split <;> exact hs
    | _ => simp [frameOf] at hframe

theorem framesKept_of_exec {c : Instr} {s t : State} (h : exec c s = .next t) : FramesKept s t := by
  obtain ⟨t', he, kept⟩ := framesKept_exec c s
  obtain rfl := Host.Outcome.next.inj (h.symm.trans he)
  exact kept

theorem framesKept_tick (s : State) : FramesKept s s.tick :=
  framesKept_whenReleased ⟨fun p hs => by simpa [State.port, Vector.get_eq_getElem, PortState.tick] using hs⟩

/-- Settles O56: a step is a command, the beginning of frames, or a millisecond, and each keeps sound frames sound. -/
theorem stepKeepsFramesSound : Obligations.StepKeepsFramesSound := by
  intro s t hs hstep
  have kept : FramesKept s t := by
    unfold step at hstep
    split at hstep
    · exact (framesKept_of_exec hstep).congr rfl
    · split at hstep
      · cases hstep
        refine ⟨fun p hp => ?_⟩
        rw [State.beginFrames, port_mapPorts]
        exact PortState.framesSound_pump hp
      · split at hstep
        · exact framesKept_of_exec hstep
        · cases hstep
          exact framesKept_tick s
  exact fun p => kept.sound p (hs p)

end Sys2Proof.Machine
end

section
/-! PROOFS. Characters at a receiver (R60 to R66): what a start bit, a character, a framing error and a pause do to the frame
in assembly. -/

namespace Sys2Proof.Machine

/-! ### A port that is not held -/

theorem PortState.held_of_brk {ps : PortState} (h : ps.rx.assembly = .brk) : ps.held = true := by
  simp [PortState.held, h]

theorem PortState.held_of_ne_brk {ps : PortState} (h : ps.rx.assembly ≠ .brk) : ps.held = false := by
  simp [PortState.held, h]

/-- A change that leaves the port as it stands changes nothing. -/
theorem modPort_stays {s : State} {p : Port} {f : PortState → PortState} (h : f (s.port p) = s.port p) :
    s.modPort p f = s := by
  rw [State.modPort, h, setPort_port]

/-! ### START_BIT -/

theorem exec_startBit {p : Port} {s : State} (hlow : s.resetLow = false) :
    exec (.startBit p) s = .next (s.modPort p fun ps =>
      if ps.held || ps.rx.awaitMark then ps
      else ps.modRx fun rx => { rx with gapTiming := false, inCharacter := true, line := .space }) := by
  simp only [exec, execStartBit, hlow, Bool.false_eq_true, if_false]

/-- Settles O6: whether a start bit is looked for decides which of the two the row does. -/
theorem startBitEndsTheGap : Obligations.StartBitEndsTheGap := by
  refine fun p s hlow => ⟨fun hbrk hmark => ⟨_, exec_startBit hlow, onlyPort_modPort .., ?_⟩, fun deaf => ?_⟩
  · simp [PortState.held_of_ne_brk hbrk, hmark, PortState.modRx]
  · rw [exec_startBit hlow, modPort_stays]
    rcases deaf with hbrk | hmark
    · simp [PortState.held_of_brk hbrk]
    · simp [hmark]

/-! ### Counters -/

/-- A counter stays at 65535, by its value (R157). -/
theorem toNat_satInc_word (c : Word) : (satInc c).toNat = min 65535 (c.toNat + 1) := by
  unfold satInc
  split
  · next h => subst h; rfl
  · next h =>
    have : c.toNat ≠ 65535 := fun e => h (BitVec.eq_of_toNat_eq (by simpa using e))
    have := c.isLt
    rw [BitVec.toNat_add]
    simp
    omega

/-! ### The examination of a character -/

theorem charKind_good {parity parityBit : Bool} {b : Byte} (h : parity = true → parityBit = parityOf b) :
    charKind parity b parityBit true = .good := by
  cases parity with
  | false => simp [charKind]
  | true => simp [charKind, h rfl]

theorem charKind_parityError {parity parityBit : Bool} {b : Byte} (hp : parity = true) (h : parityBit ≠ parityOf b) :
    charKind parity b parityBit true = .parityError := by simp [charKind, hp, h]

theorem charKind_framingError (parity parityBit : Bool) (b : Byte) :
    charKind parity b parityBit false = .framingError := by simp [charKind]

/-- A receiver that listens takes the character as its examination finds it (R60). -/
theorem exec_characterReceived {p : Port} {b : Byte} {parityBit stopBit : Bool} {s : State} (h : Listens s p)
    (hmark : (s.port p).rx.awaitMark = false) :
    (charKind s.parity b parityBit stopBit = .good →
      exec (.characterReceived p b parityBit stopBit) s = .next (s.goodCharacter p b)) ∧
    (charKind s.parity b parityBit stopBit = .parityError →
      exec (.characterReceived p b parityBit stopBit) s = .next (s.modPort p PortState.charError)) ∧
    (charKind s.parity b parityBit stopBit = .framingError →
      exec (.characterReceived p b parityBit stopBit) s = .next (s.modPort p fun ps => ps.modRx fun rx =>
        { rx with gapTiming := false, inCharacter := false, awaitMark := true, line := .space })) := by
  obtain ⟨hlow, hbrk⟩ := h
  simp only [exec, execCharacterReceived, hlow, PortState.held_of_ne_brk hbrk, hmark, Bool.or_self, Bool.false_eq_true,
    if_false]
  refine ⟨fun found => ?_, fun found => ?_, fun found => ?_⟩ <;> rw [found]

theorem exec_goodCharacter {p : Port} {b : Byte} {parityBit : Bool} {s : State} (h : Listens s p)
    (hmark : (s.port p).rx.awaitMark = false) (hp : s.parity = true → parityBit = parityOf b) :
    exec (.characterReceived p b parityBit true) s = .next (s.goodCharacter p b) :=
  (exec_characterReceived h hmark).1 (charKind_good hp)

/-! ### Frame assembly -/

theorem Assembly.active_eq {a : Assembly} (h : a ≠ .brk) : a.active = decide (a ≠ .hunt) := by
  cases a with
  | brk => exact absurd rfl h
  | _ => rfl

/-- Only a break brings a receiver into BREAK (R68). -/
theorem Assembly.take_ne_brk {a : Assembly} (b : Byte) (h : a ≠ .brk) : (a.take b).1 ≠ .brk := by
  cases a with
  | brk => exact absurd rfl h
  | hunt => simp only [Assembly.take]; split <;> nofun
  | kind => nofun
  | length k =>
    simp only [Assembly.take]
    split
    · nofun
    · split <;> nofun
  | payload k n got due => simp only [Assembly.take]; split <;> nofun
  | check k n got high => cases high <;> nofun

/-- The LEN byte (R62, R64). -/
theorem Assembly.take_length_zero {k b : Byte} (h : b.toNat = 0) :
    (Assembly.length k).take b = (.check k b [] none, .goesOn) := by
  simp [Assembly.take, Config.maxLen, h]

theorem Assembly.take_length_fits {k b : Byte} (h1 : 1 ≤ b.toNat) (h2 : b.toNat ≤ 130) :
    (Assembly.length k).take b = (.payload k b [] b.toNat, .goesOn) := by
  rw [Assembly.take, if_neg (by unfold Config.maxLen; omega), if_neg (by omega)]

theorem Assembly.take_length_long {k b : Byte} (h : 130 < b.toNat) :
    (Assembly.length k).take b = (.hunt, .discarded) := by
  rw [Assembly.take, if_pos (show Config.maxLen < b.toNat from h)]

/-- A frame whose CRC differs, or whose KIND is no master kind, is discarded at its low CRC byte (R65). -/
theorem Assembly.take_check_bad {k n high b : Byte} {got : List Byte}
    (h : crc16 (k :: n :: got) ≠ wordOf high b ∨ masterKindOf k = none) :
    (Assembly.check k n got (some high)).take b = (.hunt, .discarded) := by
  rw [Assembly.take, judgeFrame]
  rcases h with h | h
  · rw [if_pos h]
  · simp only [h]
    split <;> rfl

/-- Before its low CRC byte a frame is neither valid nor, but for its LEN, discarded. -/
theorem Assembly.judged_take {a : Assembly} (b : Byte) (h : ∀ k n got high, a ≠ .check k n got (some high)) :
    (a.take b).2 = .goesOn ∨ ((a.take b).2 = .discarded ∧ ∃ k, a = .length k) := by
  cases a with
  | check k n got high =>
    cases high with
    | none => exact .inl rfl
    | some high => exact absurd rfl (h k n got high)
  | length k =>
    simp only [Assembly.take]
    split
    · exact .inr ⟨rfl, k, rfl⟩
    · split <;> exact .inl rfl
  | _ => exact .inl rfl

theorem masterKindOf_eq_none {k : Byte}
    (h : k ≠ 0x52 ∧ k ≠ 0x44 ∧ k ≠ 0x41 ∧ k ≠ 0x4B ∧ k ≠ 0x58 ∧ k ≠ 0x43) : masterKindOf k = none := by
  have other (c : Byte) (hc : k ≠ c) : k.toNat ≠ c.toNat := fun e => hc (BitVec.eq_of_toNat_eq e)
  obtain ⟨req, dat, ack, nak, abt, nta⟩ := h
  unfold masterKindOf
  split
  · next e => exact absurd e (other _ req)
  · next e => exact absurd e (other _ dat)
  · next e => exact absurd e (other _ ack)
  · next e => exact absurd e (other _ nak)
  · next e => exact absurd e (other _ abt)
  · next e => exact absurd e (other _ nta)
  · rfl

/-! ### A good character -/

theorem goodCharacter_goesOn {s : State} {p : Port} {b : Byte} {a : Assembly}
    (h : (s.port p).rx.assembly.take b = (a, .goesOn)) :
    s.goodCharacter p b = s.modPort p fun ps => { ps with rx := ps.rx.complete a } := by
  simp only [State.goodCharacter, h]
  rfl

theorem goodCharacter_discarded {s : State} {p : Port} {b : Byte} {a : Assembly}
    (h : (s.port p).rx.assembly.take b = (a, .discarded)) :
    s.goodCharacter p b =
      s.modPort p fun ps => { ps with rx := ps.rx.complete a, counters := ps.counters.crc } := by
  simp only [State.goodCharacter, h, modPort_modPort]
  rfl

theorem goodCharacter_valid {s : State} {p : Port} {b : Byte} {a : Assembly} {kind : MasterKind} {payload : List Byte}
    (h : (s.port p).rx.assembly.take b = (a, .valid kind payload)) :
    s.goodCharacter p b = (s.modPort p fun ps => { ps with rx := ps.rx.complete a }).arrive p kind payload := by
  simp only [State.goodCharacter, h]
  rfl

/-- A good character that does not end a frame moves assembly on, and counts a frame that it discards (R62, R64). -/
theorem goodCharacter_midFrame {s : State} {p : Port} (b : Byte)
    (h : ∀ k n got high, (s.port p).rx.assembly ≠ .check k n got (some high)) :
    s.goodCharacter p b = s.modPort p fun ps =>
      { ps with
        rx := ps.rx.complete ((s.port p).rx.assembly.take b).1
        counters := if ((s.port p).rx.assembly.take b).2 = .discarded then ps.counters.crc else ps.counters } := by
  rcases Assembly.judged_take b h with judged | ⟨judged, -⟩
  · rw [goodCharacter_goesOn (Prod.ext rfl judged)]
    simp [judged]
  · rw [goodCharacter_discarded (Prod.ext rfl judged)]
    simp [judged]

/-- Settles O7: the character that does not end a frame, state by state, then the low CRC byte of a bad frame. -/
theorem charactersMoveAssembly : Obligations.CharactersMoveAssembly := by
  refine ⟨fun p b parityBit s h hmark hp hmid => ?_, fun p b parityBit s k n high got h hmark hp hcheck hbad => ?_⟩
  · refine ⟨_, (exec_goodCharacter h hmark hp).trans (congrArg _ (goodCharacter_midFrame b hmid)), onlyPort_modPort .., ?_⟩
    rw [port_modPort_same]
    refine ⟨rfl, rfl, hmark, rfl, Assembly.active_eq (Assembly.take_ne_brk b h.2), fun notLength => ?_, fun ha => ?_,
      fun ha => ?_, fun k ha => ?_, fun k n got due ha => ?_, fun k n got ha => ?_⟩
    · rcases Assembly.judged_take b hmid with judged | ⟨-, k, hk⟩
      · simp [judged]
      · exact absurd hk (notLength k)
    · simp only [ha]; rfl
    · simp only [ha]; rfl
    · simp only [ha]
      refine ⟨fun h0 => ?_, fun h1 h2 => ?_, fun hlong => ?_, fun hfits => ?_, ?_⟩
      · rw [Assembly.take_length_zero h0]; rfl
      · rw [Assembly.take_length_fits h1 h2]; rfl
      · rw [Assembly.take_length_long hlong]
        exact ⟨rfl, toNat_satInc_word _⟩
      · by_cases h0 : b.toNat = 0
        · rw [Assembly.take_length_zero h0]; rfl
        · rw [Assembly.take_length_fits (by omega) hfits]; rfl
      · split <;> rfl
    · simp only [ha]
      show (Assembly.take _ b).1 = _
      rw [Assembly.take]
    · simp only [ha]; rfl
  · have bad : (s.port p).rx.assembly.take b = (.hunt, .discarded) := by
      rw [hcheck]
      exact Assembly.take_check_bad (hbad.imp_right masterKindOf_eq_none)
    refine ⟨_, (exec_goodCharacter h hmark hp).trans (congrArg _ (goodCharacter_discarded bad)), onlyPort_modPort .., ?_⟩
    rw [port_modPort_same]
    refine ⟨rfl, ?_, rfl, toNat_satInc_word _⟩
    simp [Receiver.complete, hmark, Assembly.active]

/-! ### Faults -/

/-- An error taken: the receiver hunts, and a frame in assembly is counted (R62, R66). -/
theorem PortState.charError_eq (ps : PortState) :
    ps.charError =
      { ps with
        rx := Receiver.reset .mark
        counters := if ps.rx.assembly.active then ps.counters.framing else ps.counters } := by
  unfold PortState.charError
  dsimp only
  split <;> rfl

theorem PortState.counters_charError_hunt {ps : PortState} (h : ps.rx.assembly = .hunt) :
    ps.charError.counters = ps.counters := by
  rw [PortState.charError_eq, h]
  rfl

theorem PortState.counters_charError_active {ps : PortState} (hb : ps.rx.assembly ≠ .brk) (h : ps.rx.assembly ≠ .hunt) :
    ps.charError.counters = { ps.counters with framingDiscards := ps.charError.counters.framingDiscards } ∧
      ps.charError.counters.framingDiscards.toNat = min 65535 (ps.counters.framingDiscards.toNat + 1) := by
  rw [PortState.charError_eq, Assembly.active_eq hb]
  simp [h, Counters.framing, toNat_satInc_word]

theorem exec_framingError {p : Port} {s : State} (hlow : s.resetLow = false) :
    exec (.framingError p) s = .next (s.modPort p fun ps => if ps.held then ps else ps.charError) := by
  simp only [exec, execFramingError, hlow, Bool.false_eq_true, if_false]

/-- Settles O9: a bad character, the return to mark after one, and the limit of a pause. -/
theorem faultsDiscardTheFrame : Obligations.FaultsDiscardTheFrame := by
  refine ⟨fun p b parityBit s h hmark => ⟨fun hp hbad => ?_, ?_⟩, fun p s hlow => ⟨fun hbrk => ?_, fun hbrk => ?_⟩,
    fun p s h hhunt hgap => ?_⟩
  · refine ⟨_, (exec_characterReceived h hmark).2.1 (charKind_parityError hp hbad), onlyPort_modPort .., ?_⟩
    rw [port_modPort_same]
    refine ⟨?_, ?_, ?_, PortState.counters_charError_hunt, PortState.counters_charError_active h.2⟩
    · rw [PortState.charError_eq]
    · rw [PortState.charError_eq]; rfl
    · rw [PortState.charError_eq]; rfl
  · refine ⟨_, (exec_characterReceived h hmark).2.2 (charKind_framingError ..), onlyPort_modPort .., ?_⟩
    rw [port_modPort_same]
    rfl
  · rw [exec_framingError hlow, modPort_stays]
    rw [if_pos (PortState.held_of_brk hbrk)]
  · refine ⟨_, exec_framingError hlow, onlyPort_modPort .., ?_⟩
    rw [port_modPort_same, PortState.held_of_ne_brk hbrk, if_neg Bool.false_ne_true]
    refine ⟨?_, ?_, PortState.counters_charError_hunt, PortState.counters_charError_active hbrk⟩
    · rw [PortState.charError_eq]
    · rw [PortState.charError_eq]; rfl
  · obtain ⟨hlow, hbrk⟩ := h
    have active : (s.port p).rx.assembly.active = true := by rw [Assembly.active_eq hbrk]; simpa using hhunt
    refine ⟨_, by rw [exec, execGapLimitExpiry, State.whenReleased_high hlow], onlyPort_modPort .., ?_⟩
    rw [port_modPort_same, hgap, active]
    exact ⟨rfl, rfl, rfl, rfl, toNat_satInc_word _⟩

end Sys2Proof.Machine
end

section
/-! PROOFS. A frame, character by character (R61, R62, R65, R73, R74): its bytes, and that they bring about its arrival. -/

namespace Sys2Proof.Machine

/-! ### Bytes -/

/-- A field of two bytes, high byte first, by its value (R74). -/
theorem wordBytes_eq (w : Word) : wordBytes w = [BitVec.ofNat 8 (w.toNat / 256), BitVec.ofNat 8 w.toNat] := by
  rw [wordBytes, hiByte_eq, loByte_eq]

/-- The bytes of a frame by their values: LEAD, KIND, LEN, the payload, the CRC high byte first (R61). -/
theorem frameBytes_eq (kind : Byte) (payload : List Byte) :
    frameBytes kind payload =
      [0xC3, kind, BitVec.ofNat 8 payload.length] ++ payload ++
        [BitVec.ofNat 8 ((crc16 ([kind, BitVec.ofNat 8 payload.length] ++ payload)).toNat / 256),
          BitVec.ofNat 8 (crc16 ([kind, BitVec.ofNat 8 payload.length] ++ payload)).toNat] := by
  simp only [frameBytes, wordBytes_eq]
  rfl

/-! ### A receiver in the middle of a frame -/

/-- The receiver of port `p` with a frame in assembly, between two of its characters (R63). -/
def State.assembling (s : State) (p : Port) (a : Assembly) : State :=
  s.modPort p fun ps =>
    { ps with rx := { assembly := a, gapTiming := a.active, inCharacter := false, awaitMark := false, line := .mark } }

/-- A character with its parity right and its stop bit at mark. -/
abbrev character (p : Port) (b : Byte) : Instr := .characterReceived p b (parityOf b) true

theorem execAll_cons {i : Instr} {is : List Instr} {s t : State} (h : exec i s = .next t) :
    execAll (i :: is) s = execAll is t := by
  simp only [execAll, h]

section
variable {s : State} {p : Port} {a a' : Assembly} {b : Byte}

theorem assembling_hunt (h : (s.port p).rx =
    { assembly := .hunt, gapTiming := false, inCharacter := false, awaitMark := false, line := .mark }) :
    s.assembling p .hunt = s := by
  refine modPort_stays ?_
  rw [show Assembly.hunt.active = false from rfl, ← h]

/-- The character after which assembly stands at `a'`. -/
theorem complete_assembling :
    ((s.assembling p a).modPort p fun ps => { ps with rx := ps.rx.complete a' }) = s.assembling p a' := by
  rw [State.assembling, modPort_modPort]
  rfl

theorem exec_character_assembling (hlow : s.resetLow = false) (ha : a ≠ .brk) :
    exec (character p b) (s.assembling p a) = .next ((s.assembling p a).goodCharacter p b) := by
  have rx : ((s.assembling p a).port p).rx =
      { assembly := a, gapTiming := a.active, inCharacter := false, awaitMark := false, line := .mark } := by
    rw [State.assembling, port_modPort_same]
  exact exec_goodCharacter ⟨hlow, by rw [rx]; exact ha⟩ (by rw [rx]) fun _ => rfl

theorem take_assembling : ((s.assembling p a).port p).rx.assembly.take b = a.take b := by
  rw [State.assembling, port_modPort_same]

/-- A character within a frame. -/
theorem exec_character_goesOn (hlow : s.resetLow = false) (ha : a ≠ .brk) (ht : a.take b = (a', .goesOn)) :
    exec (character p b) (s.assembling p a) = .next (s.assembling p a') := by
  rw [exec_character_assembling hlow ha, goodCharacter_goesOn (take_assembling.trans ht), complete_assembling]

/-- The last character of a valid frame. -/
theorem exec_character_valid {kind : MasterKind} {payload : List Byte} (hlow : s.resetLow = false) (ha : a ≠ .brk)
    (ht : a.take b = (a', .valid kind payload)) :
    exec (character p b) (s.assembling p a) = .next ((s.assembling p a').arrive p kind payload) := by
  rw [exec_character_assembling hlow ha, goodCharacter_valid (take_assembling.trans ht), complete_assembling]

end

/-- The characters of a payload, as many as are due, are all taken into the frame in their order (R62). -/
theorem execAll_payload {s : State} {p : Port} (k n b : Byte) (payload got : List Byte) (more : List Instr)
    (hlow : s.resetLow = false) :
    execAll ((b :: payload).map (character p) ++ more) (s.assembling p (.payload k n got (payload.length + 1))) =
      execAll more (s.assembling p (.check k n (got ++ b :: payload) none)) := by
  induction payload generalizing b got with
  | nil =>
    have last : (Assembly.payload k n got 1).take b = (.check k n (got ++ [b]) none, .goesOn) := rfl
    exact execAll_cons (exec_character_goesOn hlow (by nofun) last)
  | cons c payload ih =>
    have moves : (Assembly.payload k n got (payload.length + 1 + 1)).take b =
        (.payload k n (got ++ [b]) (payload.length + 1), .goesOn) := by
      rw [Assembly.take, if_neg (by omega)]
      rfl
    rw [List.map_cons, List.cons_append, List.length_cons, execAll_cons (exec_character_goesOn hlow (by nofun) moves), ih]
    simp

/-- LEN and the payload, of any length that a frame can have (R62, R64). -/
theorem execAll_length {s : State} {p : Port} (k : Byte) (payload : List Byte) (more : List Instr)
    (hlow : s.resetLow = false) (hlen : payload.length ≤ 130) :
    execAll ((BitVec.ofNat 8 payload.length :: payload).map (character p) ++ more) (s.assembling p (.length k)) =
      execAll more (s.assembling p (.check k (BitVec.ofNat 8 payload.length) payload none)) := by
  have len : (BitVec.ofNat 8 payload.length).toNat = payload.length := by
    rw [BitVec.toNat_ofNat]
    omega
  cases payload with
  | nil => exact execAll_cons (exec_character_goesOn hlow (by nofun) (Assembly.take_length_zero len))
  | cons b payload =>
    have taken := Assembly.take_length_fits (k := k) (b := BitVec.ofNat 8 (b :: payload).length)
      (by rw [len]; simp) (by omega)
    rw [len] at taken
    rw [List.map_cons, List.cons_append, execAll_cons (exec_character_goesOn hlow (by nofun) taken)]
    exact execAll_payload k _ b payload [] more hlow

/-- A frame with its own CRC and a master kind is valid (R65). -/
theorem Assembly.take_check_valid (kind : MasterKind) (n : Byte) (payload : List Byte) :
    (Assembly.check kind.code n payload (some (hiByte (crc16 (kind.code :: n :: payload))))).take
        (loByte (crc16 (kind.code :: n :: payload))) =
      (.hunt, .valid kind payload) := by
  rw [Assembly.take, wordOf_bytes, judgeFrame, if_neg (by simp), masterKindOf_code]

/-- The characters of a frame bring about its arrival (R67). -/
theorem execAll_characters {s : State} {p : Port} (kind : MasterKind) (payload : List Byte) (hlow : s.resetLow = false)
    (hlen : payload.length ≤ 130) (hrx : (s.port p).rx =
      { assembly := .hunt, gapTiming := false, inCharacter := false, awaitMark := false, line := .mark }) :
    execAll (characters p kind payload) s = .next (s.arrive p kind payload) := by
  have bytes : characters p kind payload =
      character p Config.lead :: character p kind.code ::
        ((BitVec.ofNat 8 payload.length :: payload).map (character p) ++
          [character p (hiByte (crc16 (kind.code :: BitVec.ofNat 8 payload.length :: payload))),
            character p (loByte (crc16 (kind.code :: BitVec.ofNat 8 payload.length :: payload)))]) := by
    simp [characters, frameBytes, wordBytes]
  have start : execAll (characters p kind payload) s = execAll (characters p kind payload) (s.assembling p .hunt) := by
    rw [assembling_hunt hrx]
  rw [start, bytes,
    execAll_cons (exec_character_goesOn (a' := .kind) hlow (by nofun) rfl),
    execAll_cons (exec_character_goesOn (a' := .length kind.code) hlow (by nofun) rfl), execAll_length _ _ _ hlow hlen,
    execAll_cons (exec_character_goesOn hlow (by nofun) rfl),
    execAll_cons (exec_character_valid hlow (by nofun) (Assembly.take_check_valid kind _ payload)), assembling_hunt hrx]
  rfl

/-! ### The layouts -/

/-- Settles O8: the run of characters, their bytes, the check value of R61, and the layouts of R74. -/
theorem frameBytesBringTheFrame : Obligations.FrameBytesBringTheFrame := by
  refine ⟨fun i p kind payload s hframe hlen hlow hrx => ?_, fun p kind payload => ?_, by decide +kernel,
    fun p tag area flags id op first count lease bytes => ?_⟩
  · have heard : (s.port p).held = false := PortState.held_of_ne_brk (by rw [hrx]; nofun)
    rw [execAll_characters kind payload hlow hlen hrx, exec_of_frameOf hframe, State.frameRow,
      State.whenReleased_high hlow, heard, if_neg Bool.false_ne_true]
  · intro code crc
    have hcode : kind.code = code := by cases kind <;> rfl
    rw [characters, frameBytes_eq, hcode]
    simp only [parityOf_eq]
    rfl
  · simp [frameOf, Request.payload, Request.op, Request.fields, wordBytes_eq]

end Sys2Proof.Machine
end

section
/-! PROOFS. Breaks (R68, R69, R109) and the end of a frame on the line (R70): what the port may send after them. -/

namespace Sys2Proof.Machine

/-! ### The port reset -/

theorem exec_breakDetected {p : Port} {s : State} (h : Listens s p) :
    exec (.breakDetected p) s =
      .next (((s.modPort p PortState.portReset).withdrawSnapshot p).removeHoldsOf p) := by
  obtain ⟨hlow, hbrk⟩ := h
  rw [exec, execBreakDetected, State.whenReleased_high hlow, PortState.held_of_ne_brk hbrk, if_neg Bool.false_ne_true]

/-- Of the waiting claims the snapshot claim of the port alone is withdrawn (R19). -/
theorem flatten_withdrawSnapshot (s : State) (p : Port) :
    (s.withdrawSnapshot p).claims.flatten = s.claims.flatten.filter fun c => !c.isSnapshotOf p := by
  have nonempty (l : List (List Claim)) : (l.filter fun batch => !batch.isEmpty).flatten = l.flatten := by
    induction l with
    | nil => rfl
    | cons batch later ih => cases batch <;> simp [ih]
  simp only [State.withdrawSnapshot, nonempty, ← List.filter_flatten]

/-- A commit handed over is still taken, with its staged words (R109). -/
theorem PortState.portReset_committing {ps : PortState} (hs : ps.session = .committing)
    (hc : ps.transfer.any Transfer.closing = false) :
    ps.portReset.session = .committing ∧ ps.portReset.buffer = ps.buffer := by
  simp [PortState.portReset, PortState.resetSession, hs, hc]

/-- Any other session ends (R109). -/
theorem PortState.portReset_ends {ps : PortState}
    (h : ps.session ≠ .committing ∨ ps.transfer.any Transfer.closing = true) :
    ps.portReset.session = .idle ∧ ps.portReset.buffer = [] := by
  have ends : (ps.session = .committing && !ps.transfer.any Transfer.closing) = false := by
    rcases h with h | h <;> simp [h]
  simp only [PortState.portReset, PortState.resetSession, ends, Bool.false_eq_true, if_false, and_self]

/-- A SWAP or COPY handed over is still pending, owed to nobody (R58, R109). -/
theorem PortState.bankRequest_portReset (ps : PortState) :
    ps.portReset.bankRequest = ps.bankRequest.map fun _ => .orphaned := rfl

/-- Settles O10: the port as its reset leaves it, field by field. -/
theorem breakResetsThePort : Obligations.BreakResetsThePort := by
  intro p s h
  refine ⟨_, exec_breakDetected h, rfl, fun q hq => port_modPort_other _ _ _ _ hq, rfl,
    flatten_withdrawSnapshot (s.modPort p PortState.portReset) p, ?_⟩
  rw [port_removeHoldsOf, port_withdrawSnapshot, port_modPort_same]
  refine ⟨rfl, rfl, rfl, rfl, rfl, rfl, rfl, rfl, fun hs hc => ?_, PortState.portReset_ends, ?_, fun request => ?_, rfl,
    fun i => ?_, rfl⟩
  · exact PortState.portReset_committing hs (by simpa [Option.any_eq_false] using hc)
  · rw [PortState.bankRequest_portReset, Option.isSome_map]
  · rw [PortState.bankRequest_portReset]
    cases (s.port p).bankRequest <;> simp
  · simp [PortState.portReset, NoticeState.reset, Vector.get_eq_getElem]

/-! ### Delivery -/

/-- The conditions of R121 that stand in the port, one by one. -/
theorem PortState.readyToSend_iff (ps : PortState) :
    ps.readyToSend = true ↔
      ps.session = .idle ∧ ps.bankRequest = none ∧ ps.held = false ∧ ps.notice.paused = false ∧ ps.notice.queue ≠ [] := by
  simp [PortState.readyToSend, PortState.free, and_assoc]

/-- Delivery that does not send changes nothing. -/
theorem PortState.deliver_silent {ps : PortState} {enabled : Bool} (h : ¬(enabled = true ∧ ps.readyToSend = true)) :
    ps.deliver enabled = ps := by
  rw [PortState.deliver, if_neg (by simpa using h)]

/-- The head entry as a transmission leaves it: an entry not yet sent takes its seq and its lost value (R121). -/
def NoticeState.headSent (ns : NoticeState) (e : Notice) : Notice :=
  if e.sent.isSome then e else { e with sent := some { seq := ns.seqCounter, lost := ns.lost } }

/-- Delivery that sends places the NTC of the head entry in the slot (R121). -/
theorem PortState.deliver_sends {ps : PortState} {e : Notice} {rest : List Notice} (hr : ps.readyToSend = true)
    (hq : ps.notice.queue = e :: rest) :
    let b := ps.deliver true
    b.session = .notifying ∧ b.notice.queue = ps.notice.headSent e :: rest ∧
      b.tx.slot = some (ntcFrame (ps.notice.headSent e)) ∧
      b.notice.seqCounter = ps.notice.seqCounter + if e.sent.isSome then 0 else 1 := by
  have sends : ps.deliver true = ps.send := by simp [PortState.deliver, hr]
  simp only [sends, PortState.send, hq, NoticeState.headSent]
  split
  · exact ⟨rfl, hq, rfl, by simp [PortState.placeNtc]⟩
  · exact ⟨rfl, rfl, rfl, rfl⟩

/-! ### The bytes of an NTC -/

theorem wordBytes_ofNat (n : Nat) : wordBytes (BitVec.ofNat 16 n) = [BitVec.ofNat 8 (n / 256), BitVec.ofNat 8 n] := by
  have high : BitVec.ofNat 8 (n % 65536 / 256) = BitVec.ofNat 8 (n / 256) := by
    apply BitVec.eq_of_toNat_eq
    simp only [BitVec.toNat_ofNat]
    omega
  have low : BitVec.ofNat 8 (n % 65536) = BitVec.ofNat 8 n := by
    apply BitVec.eq_of_toNat_eq
    simp only [BitVec.toNat_ofNat]
    omega
  rw [wordBytes_eq, BitVec.toNat_ofNat, show (2 : Nat) ^ 16 = 65536 from rfl, high, low]

theorem genBytes_eq (g : Gen) :
    genBytes g =
      [BitVec.ofNat 8 (g.toNat / 2 ^ 24), BitVec.ofNat 8 (g.toNat / 2 ^ 16), BitVec.ofNat 8 (g.toNat / 2 ^ 8),
        BitVec.ofNat 8 g.toNat] := by
  have byte (k : Nat) : g.extractLsb' k 8 = BitVec.ofNat 8 (g.toNat / 2 ^ k) := by
    apply BitVec.eq_of_toNat_eq
    simp [BitVec.extractLsb', Nat.shiftRight_eq_div_pow]
  simp only [genBytes, byte, Nat.pow_zero, Nat.div_one]

/-- The layout of an NTC whose entry goes out for the first time (R75, R122). -/
theorem ntcFrame_first (e : Notice) (info : SentInfo) :
    ntcFrame { e with sent := some info } =
      { kind := .ntc, origin := .notice
        payload :=
          [info.seq, e.kind.byte, e.refId, e.area.code, BitVec.ofNat 8 (e.first / 256), BitVec.ofNat 8 e.first,
            BitVec.ofNat 8 (e.last / 256), BitVec.ofNat 8 e.last, BitVec.ofNat 8 (e.gen.toNat / 2 ^ 24),
            BitVec.ofNat 8 (e.gen.toNat / 2 ^ 16), BitVec.ofNat 8 (e.gen.toNat / 2 ^ 8), BitVec.ofNat 8 e.gen.toNat,
            e.cause, info.lost] } := by
  simp only [ntcFrame, wordBytes_ofNat, genBytes_eq]
  rfl

/-! ### BREAK_END -/

/-- The end of a break at a port with nothing to begin: the receiver hunts, and delivery judges (R68, R109). -/
theorem exec_breakEnd {p : Port} {s : State} (hlow : s.resetLow = false) (hbrk : (s.port p).rx.assembly = .brk)
    (htx : (s.port p).tx = { sending := none, queue := [], slot := none }) :
    exec (.breakEnd p) s =
      .next (s.modPort p fun ps => { ps with rx := Receiver.reset .mark }.deliver (s.enabled p)) := by
  have nothing : { s.port p with rx := Receiver.reset .mark }.pump = { s.port p with rx := Receiver.reset .mark } :=
    PortState.pump_nothing _ (by simp [PortState.waitsToBegin, htx])
  have freed : exec (.breakEnd p) s =
      .next ((s.modPort p fun ps => { ps with rx := Receiver.reset .mark }.pump).judge p) := by
    rw [exec, execBreakEnd, hlow, if_neg Bool.false_ne_true, if_pos (PortState.held_of_brk hbrk)]
    rfl
  rw [freed, State.judge, modPort_modPort]
  exact congrArg _ (modPort_congr (by rw [nothing]; rfl))

/-- Settles O11: out of BREAK nothing, and in BREAK the delivery of a port whose receiver hunts again. -/
theorem breakEndFreesTheReceiver : Obligations.BreakEndFreesTheReceiver := by
  refine fun p s hlow => ⟨fun hbrk => ?_, fun hbrk htx =>
    ⟨_, exec_breakEnd hlow hbrk htx, onlyPort_modPort .., ?_⟩⟩
  · rw [exec, execBreakEnd, hlow, if_neg Bool.false_ne_true, PortState.held_of_ne_brk hbrk, if_neg Bool.false_ne_true]
  · rw [port_modPort_same]
    refine ⟨by rw [PortState.deliver_eq]; rfl, fun silent => ?_, fun e rest hon hs hb hp hq hsent => ?_⟩
    · have stays : { s.port p with rx := Receiver.reset .mark }.deliver (s.enabled p) =
          { s.port p with rx := Receiver.reset .mark } := by
        refine PortState.deliver_silent fun ⟨hon, ready⟩ => ?_
        obtain ⟨hs, hb, -, hp, hq⟩ := (PortState.readyToSend_iff _).mp ready
        simp_all
      rw [stays]
    · have ready : { s.port p with rx := Receiver.reset .mark }.readyToSend = true :=
        (PortState.readyToSend_iff _).mpr ⟨hs, hb, rfl, hp, by simp [hq]⟩
      obtain ⟨session, queue, slot, seq⟩ := PortState.deliver_sends ready hq
      have first : (s.port p).notice.headSent e =
          { e with sent := some { seq := (s.port p).notice.seqCounter, lost := (s.port p).notice.lost } } := by
        simp [NoticeState.headSent, hsent]
      rw [hon]
      refine ⟨session, queue.trans (by rw [first]), seq.trans (by simp [hsent]), ?_, ?_, slot.trans ?_⟩
      · rw [PortState.frames_deliver]; simp [htx]
      · rw [PortState.frames_deliver]; simp [htx]
      · rw [first, ntcFrame_first]
        rfl

/-! ### The next frame -/

/-- A frame handed to the line, with its bytes (R61, R70). -/
def TxFrame.begun (f : TxFrame) : Sending := { frame := f, wire := frameBytes f.kind.code f.payload }

/-- A free transmitter begins the oldest session frame (R70). -/
theorem PortState.pump_queue {ps : PortState} {f : TxFrame} {rest : List TxFrame} (hs : ps.tx.sending = none)
    (hh : ps.held = false) (hq : ps.tx.queue = f :: rest) :
    ps.pump = { ps with tx := { ps.tx with sending := some f.begun, queue := rest } } := by
  simp [PortState.pump, hs, hh, hq, Transmitter.start, TxFrame.begun]

/-- With no session frame it begins the NTC in the slot, if there is one (R70). -/
theorem PortState.pump_slot {ps : PortState} (hs : ps.tx.sending = none) (hh : ps.held = false)
    (hq : ps.tx.queue = []) :
    ps.pump = { ps with tx := { sending := ps.tx.slot.map TxFrame.begun, queue := [], slot := none } } := by
  obtain ⟨rx, ⟨sending, queue, slot⟩⟩ := ps
  dsimp only at hs hq
  subst hs hq
  simp only [PortState.pump, hh]
  cases slot <;> rfl

/-- A frame that waits for a free transmitter is in progress once it is begun. -/
theorem PortState.sending_pump {ps : PortState} (h : FrameWaits ps) : ps.pump.tx.sending.isSome = true := by
  obtain ⟨hs, hbrk, waits⟩ := h
  have heard := PortState.held_of_ne_brk hbrk
  cases hq : ps.tx.queue with
  | cons f rest => rw [PortState.pump_queue hs heard hq, Option.isSome_some]
  | nil =>
    obtain ⟨f, hf⟩ := Option.ne_none_iff_exists'.mp (waits.resolve_left (by simp [hq]))
    rw [PortState.pump_slot hs heard hq, hf, Option.map_some, Option.isSome_some]

/-- What a transmitter has begun is what it begins. -/
theorem Begins.eq_pump {a b : PortState} (hw : FrameWaits a) (h : Begins a b) : b = a.pump := by
  obtain ⟨rest, queue, slot⟩ := h
  obtain ⟨rest', queue', slot'⟩ := PortState.begins_pump a hw
  have tx : b.tx = a.pump.tx := by
    cases hq : a.tx.queue with
    | cons f fs => rw [queue f fs hq, queue' f fs hq]
    | nil =>
      obtain ⟨f, hf⟩ := Option.ne_none_iff_exists'.mp (hw.2.2.resolve_left (by simp [hq]))
      rw [slot f hq hf, slot' f hq hf]
  rw [rest, rest', tx]

/-! ### FRAME_SENT -/

/-- FRAME_SENT ends the frame in progress, the next frame waiting taken as begun where none is (log entry 21). -/
theorem exec_frameSent {p : Port} {s : State} (hlow : s.resetLow = false) :
    exec (.frameSent p) s =
      .next (if (s.port p).pump.tx.sending.isSome then
        (s.setPort p ((s.port p).pump.frameSent (s.image.liveWord 52).toNat)).judge p else s) := by
  rw [exec, execFrameSent, State.whenReleased_high hlow]

/-- The port once its frame in progress is reported sent and off the line, before the next frame is begun (R70). -/
def PortState.lineFree (ps : PortState) (f : TxFrame) (wait : Nat) : PortState :=
  { ps with tx := { ps.tx with sending := none } }.reportSent f wait

theorem exec_frameSent_busy {p : Port} {s : State} {f : Sending} (hlow : s.resetLow = false)
    (hf : (s.port p).tx.sending = some f) :
    exec (.frameSent p) s = .next (s.modPort p fun ps =>
      (ps.lineFree f.frame (s.image.liveWord 52).toNat).pump.deliver (s.enabled p)) := by
  have busy : (s.port p).pump = s.port p := PortState.pump_busy _ (.inl (by simp [hf]))
  rw [exec_frameSent hlow, busy, hf, Option.isSome_some, if_pos rfl, PortState.frameSent, hf, State.judge, State.modPort,
    port_setPort_same, setPort_setPort]
  rfl

/-- The report of a sent frame takes it off the line, and leaves the rest of the transmitter, the receiver, the pending
request and all of the notices but T_ntc. -/
theorem PortState.lineFree_eq (ps : PortState) (f : TxFrame) (wait : Nat) :
    ps.lineFree f wait =
      { ps with
        tx := { ps.tx with sending := none }
        tAck := (ps.lineFree f wait).tAck, record := (ps.lineFree f wait).record
        buffer := (ps.lineFree f wait).buffer, transfer := (ps.lineFree f wait).transfer
        session := (ps.lineFree f wait).session
        notice := { ps.notice with tNtc := (ps.lineFree f wait).notice.tNtc } } := by
  unfold PortState.lineFree PortState.reportSent PortState.reportNotice
  split
  · split <;> rfl
  · rw [PortState.reportSession_eq]

theorem PortState.lineFree_reply {ps : PortState} {f : TxFrame} (wait : Nat) (h : f.origin = .reply) :
    ps.lineFree f wait = { ps with tx := { ps.tx with sending := none } } := by
  simp [PortState.lineFree, PortState.reportSent, h]

/-- A port is in IDLE after a report if it was before, or if the report closes its transfer (R103). -/
theorem PortState.lineFree_idle (ps : PortState) (f : TxFrame) (wait : Nat) :
    (ps.lineFree f wait).session = .idle ↔
      ps.session = .idle ∨ f.origin = .closing ∧ ps.transfer.any Transfer.closing = true := by
  unfold PortState.lineFree PortState.reportSent PortState.reportSession
  cases ho : f.origin with
  | reply => simp
  | notice =>
    simp only [if_true, PortState.reportNotice]
    split <;> simp [PortState.modNotice]
  | segment seq =>
    simp only [reduceCtorEq, if_false, PortState.startTAck]
    cases ps.transfer with
    | none => simp
    | some t => dsimp only; split <;> simp
  | closing =>
    simp only [reduceCtorEq, if_false, PortState.close]
    cases ps.transfer with
    | none => simp
    | some t => cases hc : t.closing <;> simp [hc]

/-- What delivery needs at a port whose frame has been sent, the notice-enable bit aside (R78, R121). -/
theorem PortState.readyToSend_lineFree {ps : PortState} (f : TxFrame) (wait : Nat) (heard : ps.held = false) :
    (ps.lineFree f wait).pump.readyToSend = true ↔
      ps.notice.paused = false ∧ ps.notice.queue ≠ [] ∧ ps.bankRequest = none ∧
        (ps.session = .idle ∨ f.origin = .closing ∧ ps.transfer.any Transfer.closing = true) := by
  have idle := PortState.lineFree_idle ps f wait
  have freed := PortState.lineFree_eq ps f wait
  generalize ps.lineFree f wait = a at idle freed
  have ready : a.pump.readyToSend = true ↔
      a.session = .idle ∧ a.bankRequest = none ∧ a.held = false ∧ a.notice.paused = false ∧ a.notice.queue ≠ [] := by
    rw [PortState.readyToSend_iff, PortState.pump_eq]
    rfl
  have stays : a.bankRequest = ps.bankRequest ∧ a.held = false ∧ a.notice.paused = ps.notice.paused ∧
      a.notice.queue = ps.notice.queue := by
    rw [freed]
    exact ⟨rfl, heard, rfl, rfl⟩
  obtain ⟨bankRequest, held, paused, queue⟩ := stays
  rw [ready, idle, bankRequest, held, paused, queue]
  exact ⟨fun ⟨hs, hb, _, hp, hq⟩ => ⟨hp, hq, hb, hs⟩, fun ⟨hp, hq, hb, hs⟩ => ⟨hs, hb, rfl, hp, hq⟩⟩

/-- Settles O12: the frame in progress with what follows it, then the frame that waited. -/
theorem transmitterTakesSessionFramesFirst : Obligations.TransmitterTakesSessionFramesFirst := by
  refine ⟨fun p s f h hf => ?_, fun p s h hs => ⟨fun hq hslot => ?_, fun b hw hb => ?_⟩⟩
  · intro code begun sends
    obtain ⟨hlow, hbrk⟩ := h
    have hbegun : TxFrame.begun = begun := by
      funext g
      have hcode : g.kind.code = code g.kind := by cases g.kind <;> rfl
      rw [TxFrame.begun, frameBytes_eq, hcode]
    refine ⟨_, exec_frameSent_busy hlow hf, onlyPort_modPort .., ?_⟩
    rw [port_modPort_same]
    generalize (s.image.liveWord 52).toNat = wait
    have freed := PortState.lineFree_eq (s.port p) f.frame wait
    have ready := PortState.readyToSend_lineFree (ps := s.port p) f.frame wait (PortState.held_of_ne_brk hbrk)
    have reply := PortState.lineFree_reply (ps := s.port p) (f := f.frame) wait
    generalize (s.port p).lineFree f.frame wait = a at freed ready reply
    have heard : a.held = false := by rw [freed]; exact PortState.held_of_ne_brk hbrk
    have free : a.tx.sending = none := by rw [freed]
    have silent (hn : ¬sends) : a.pump.deliver (s.enabled p) = a.pump :=
      PortState.deliver_silent fun ⟨hon, hr⟩ => hn ⟨hon, ready.mp hr⟩
    refine ⟨fun ho hn => ?_, fun g rest hq => ?_, fun hq => ?_, fun hy e rest hq => ?_⟩
    · rw [silent hn, PortState.pump_eq, reply ho]
    · have begins := PortState.pump_queue free heard (show a.tx.queue = g :: rest by rw [freed]; exact hq)
      refine ⟨?_, ?_, fun hn => ?_⟩
      · rw [PortState.frames_deliver, begins, hbegun]
      · rw [PortState.frames_deliver, begins]
      · rw [silent hn, begins, freed]
    · have begins := PortState.pump_slot free heard (show a.tx.queue = [] by rw [freed]; exact hq)
      refine ⟨?_, ?_, fun hn => ?_⟩
      · rw [PortState.frames_deliver, begins]
      · rw [PortState.frames_deliver, begins, freed, hbegun]
      · rw [silent hn, begins]
    · obtain ⟨hon, conditions⟩ := hy
      have notice : a.pump.notice.queue = (s.port p).notice.queue ∧
          a.pump.notice.headSent e = (s.port p).notice.headSent e := by
        rw [PortState.pump_eq, freed]
        exact ⟨rfl, rfl⟩
      obtain ⟨session, queue, slot, -⟩ := PortState.deliver_sends (ready.mpr conditions) (notice.1.trans hq)
      rw [hon]
      rw [notice.2] at queue slot
      exact ⟨session, queue, slot⟩
  · have nothing : (s.port p).pump = s.port p := PortState.pump_nothing _ (by simp [PortState.waitsToBegin, hq, hslot])
    rw [exec_frameSent h.1, nothing, hs, Option.isSome_none, if_neg Bool.false_ne_true]
  · obtain rfl := hb.eq_pump hw
    have begun := PortState.sending_pump hw
    rw [exec_frameSent h.1, exec_frameSent (s := s.setPort p _) h.1, port_setPort_same,
      PortState.pump_busy _ (.inl begun), setPort_setPort]
    simp only [begun, if_true]
    rfl

end Sys2Proof.Machine
end

section
/-! PROOFS. A frame formed at a full queue (R71): the oldest frame is removed, and its producer told, where BUSY is formed. -/

namespace Sys2Proof.Machine

/-- A port with a transfer open or a commit on its way (R78). -/
abbrev PortState.InUse (ps : PortState) : Prop :=
  ps.session = .receiving ∨ ps.session = .sending ∨ ps.session = .committing

/-- The payload of a request row has its tag and its operation code at least. -/
theorem length_of_frameOf_req {i : Instr} {p : Port} {request : List Byte} (h : frameOf i = some (p, .req, request)) :
    ¬request.length < 2 := by
  cases i <;> cases h <;> simp [Request.payload]

/-- The port as a frame of any kind meets it: the paused flag cleared (R127). -/
def PortState.resumed (ps : PortState) : PortState := ps.modNotice fun ns => { ns with paused := false }

/-- A REQ at a port in use is answered as R82 says, and delivery judges after it. -/
theorem exec_req_inUse {i : Instr} {p : Port} {request : List Byte} {s : State}
    (hi : frameOf i = some (p, .req, request)) (h : Listens s p) (hs : (s.port p).InUse) :
    exec i s = .next (s.modPort p fun ps => (ps.resumed.busy request).deliver (s.enabled p)) := by
  obtain ⟨hlow, hbrk⟩ := h
  have taken : (s.modPort p PortState.resumed).takeReq p request =
      (s.modPort p PortState.resumed).modPort p fun ps => ps.busy request := by
    have session : ((s.modPort p PortState.resumed).port p).session = (s.port p).session := by
      rw [port_modPort_same]
      rfl
    rw [State.takeReq, if_neg (length_of_frameOf_req hi), session]
    rcases hs with hs | hs | hs <;> rw [hs]
  have arrives : s.arrive p .req request = ((s.modPort p PortState.resumed).takeReq p request).judge p := rfl
  rw [exec_of_frameOf hi, State.frameRow, State.whenReleased_high hlow, PortState.held_of_ne_brk hbrk,
    if_neg Bool.false_ne_true, arrives, taken, State.judge, modPort_modPort, modPort_modPort]
  rfl

/-- A REQ that is not the open one is answered BUSY (R82). -/
theorem PortState.busy_other {ps : PortState} {request : List Byte} (h : ∀ x ∈ ps.transfer, x.request ≠ request) :
    ps.busy request = ps.form (rspFrame request 0x10 [0, 0]) := by
  have other : ps.transfer.filter (fun t => t.request = request) = none := by
    rw [Option.filter_eq_none_iff]
    simpa using h
  rw [PortState.busy, other]
  rfl

/-- At a full queue, with a frame in progress, the frame formed joins the queue less its oldest frame, and the report of
that one is all else that changes (R71). -/
theorem PortState.form_full_busy {ps : PortState} (f oldest : TxFrame) {rest : List TxFrame}
    (hs : ps.tx.sending.isSome = true) (hq : ps.tx.queue = oldest :: rest) (h : 3 ≤ rest.length) :
    ps.form f = { ps with tx := { ps.tx with queue := rest ++ [f] } }.reportSession oldest := by
  rw [PortState.form_full ps f oldest rest hq h]
  refine PortState.pump_busy _ (.inl ?_)
  rw [PortState.reportSession_eq]
  exact hs

/-- The report of a FIN closes its transfer (R103). -/
theorem PortState.reportSession_closing {ps : PortState} {f : TxFrame} {x : Transfer} (ho : f.origin = .closing)
    (ht : ps.transfer = some x) (hc : x.closing = true) :
    ps.reportSession f =
      { ps with
        record := some { request := x.request, replyKind := .fin, reply := f.payload }, buffer := [], transfer := none
        session := .idle } := by
  simp [PortState.reportSession, ho, PortState.close, ht, hc]

/-- The report of a DAT of the current seq starts T_ack (R97). -/
theorem PortState.reportSession_segment {ps : PortState} {f : TxFrame} {x : Transfer} (ho : f.origin = .segment x.seq)
    (hs : ps.session = .sending) (ht : ps.transfer = some x) (hc : x.closing = false) (hg : x.snapGen.isSome = true) :
    ps.reportSession f = { ps with tAck := some x.wait } := by
  simp [PortState.reportSession, ho, PortState.startTAck, ht, hs, hc, hg]

/-- Settles O18: BUSY at a full queue, with the report of the frame removed by what its producer waits for. -/
theorem fullQueueRemovesTheOldest : Obligations.FullQueueRemovesTheOldest := by
  intro i p request s x f rest hi h hs hb ht hne hsending hq hlen
  refine ⟨_, exec_req_inUse hi h hs, onlyPort_modPort .., ?_⟩
  rw [port_modPort_same, PortState.busy_other (by simpa [PortState.resumed, PortState.modNotice, ht] using hne),
    PortState.form_full_busy (ps := (s.port p).resumed) _ f hsending hq (Nat.le_of_eq hlen.symm)]
  generalize hjoined : ({ (s.port p).resumed with
    tx := { (s.port p).resumed.tx with queue := rest ++ [rspFrame request 0x10 [0, 0]] } } : PortState) = a
  have rest_of_a : a.tx.queue = rest ++ [rspFrame request 0x10 [0, 0]] ∧ a.tx.sending = (s.port p).tx.sending ∧
      a.transfer = some x ∧ a.session = (s.port p).session ∧ a.tAck = (s.port p).tAck := by
    rw [← hjoined]
    exact ⟨rfl, rfl, ht, rfl, rfl⟩
  obtain ⟨queue, sending, transfer, session, tAck⟩ := rest_of_a
  refine ⟨?_, ?_, fun ho => ?_, fun ho hc => ?_, fun seq ho hsend hc hg hseq => ?_⟩
  · rw [PortState.frames_deliver, PortState.reportSession_eq]
    exact queue
  · rw [PortState.frames_deliver, PortState.reportSession_eq]
    exact sending
  · have notFree : a.free = false := by
      rcases hs with hs | hs | hs <;> simp [PortState.free, session, hs]
    rw [PortState.reportSession_reply a f ho, PortState.deliver_notFree _ _ notFree]
    exact ⟨transfer, session, tAck⟩
  · rw [PortState.reportSession_closing ho transfer hc]
    refine ⟨?_, ?_, ?_, PortState.session_deliver _ _⟩
    · rw [PortState.deliver_eq]
    · rw [PortState.deliver_eq]
    · rw [PortState.deliver_eq]
  · subst hseq
    rw [PortState.reportSession_segment ho (session.trans hsend) transfer hc hg, PortState.deliver_eq]
    exact ⟨transfer, rfl⟩

end Sys2Proof.Machine
end

section
/-! PROOFS. A step on an empty queue (log entries 1, 3, 21): what waits is begun, what is due is taken, or a millisecond
passes; and an expiry row before its expiry. -/

namespace Sys2Proof.Machine

theorem State.waitsToBegin_eq_false {s : State} (h : ∀ p, ¬FrameWaits (s.port p)) : s.waitsToBegin = false :=
  Bool.eq_false_iff.mpr fun waits => by
    obtain ⟨-, p, hp⟩ := (State.waitsToBegin_iff s).mp waits
    exact h p hp

/-- On an empty queue with no frame waiting, a step takes what is due. -/
theorem step_due {s : State} {c : Instr} (hp : s.pending = []) (hw : ∀ p, ¬FrameWaits (s.port p))
    (hd : s.dueExpiry = some c) : step s = exec c s := by
  simp [step, hp, State.waitsToBegin_eq_false hw, hd]

/-- With nothing due either, it lets a millisecond pass. -/
theorem step_tick {s : State} (hp : s.pending = []) (hw : s.waitsToBegin = false) (hd : s.dueExpiry = none) :
    step s = .next s.tick := by
  simp [step, hp, hw, hd]

theorem step_low {s : State} (hp : s.pending = []) (hlow : s.resetLow = true) : step s = .next s := by
  rw [step_tick hp (by simp [State.waitsToBegin, hlow]) (by simp [State.dueExpiry, hlow]), State.tick,
    State.whenReleased_low hlow]

theorem step_begins {s : State} (hp : s.pending = []) (hlow : s.resetLow = false) (hw : ∃ p, FrameWaits (s.port p)) :
    step s = .next s.beginFrames := by
  simp [step, hp, (State.waitsToBegin_iff s).mpr ⟨hlow, hw⟩]

theorem port_beginFrames (s : State) (p : Port) : s.beginFrames.port p = (s.port p).pump := port_mapPorts ..

theorem pump_of_not_waits {ps : PortState} (h : ¬FrameWaits ps) : ps.pump = ps :=
  PortState.pump_nothing ps (Bool.eq_false_iff.mpr fun waits => h ((PortState.waitsToBegin_iff ps).mp waits))

/-- A millisecond takes one from each lease and each timer, and adds one to each measurement (log entry 1). -/
theorem State.tick_eq {s : State} (hlow : s.resetLow = false) :
    s.tick =
      { s with
        holds := s.holds.map fun h => { h with lease := h.lease - 1 }
        ports := s.tick.ports, lines := s.tick.lines, groups := s.tick.groups } := by
  rw [State.tick, State.whenReleased_high hlow]

theorem port_tick {s : State} (hlow : s.resetLow = false) (p : Port) : s.tick.port p = (s.port p).tick := by
  rw [State.tick, State.whenReleased_high hlow]
  simp [State.port, Vector.get_eq_getElem]

theorem line_tick {s : State} (hlow : s.resetLow = false) (n : Line) :
    s.tick.line n = (s.line n).tick (s.image.filterTime n) := by
  rw [State.tick, State.whenReleased_high hlow]
  simp [State.line, Vector.get_eq_getElem]

theorem group_tick {s : State} (hlow : s.resetLow = false) (g : Group) :
    s.tick.group g = { s.group g with timer := countDown (s.group g).timer } := by
  rw [State.tick, State.whenReleased_high hlow]
  simp [State.group, Vector.get_eq_getElem]

/-- An expiry row takes no effect before its expiry is due. -/
theorem exec_notDue {c : Instr} {s : State} (hlow : s.resetLow = false) (hc : isExpiry c = true) (hd : ¬Due s c) :
    exec c s = .next s := by
  cases c with
  | tSegExpiry p =>
    have none := Option.not_isSome_iff_eq_none.mp (mt (segDue_iff s p).mp hd)
    rw [exec, execTSegExpiry, State.whenReleased_high hlow, modPort_stays (by rw [none])]
  | tAckExpiry p =>
    have none := Option.not_isSome_iff_eq_none.mp (mt (ackDue_iff s p).mp hd)
    rw [exec, execTAckExpiry, State.whenReleased_high hlow, modPort_stays (by rw [none])]
  | tNtcExpiry p =>
    have none := Option.not_isSome_iff_eq_none.mp (mt (noticeDue_iff s p).mp hd)
    rw [exec, execTNtcExpiry, State.whenReleased_high hlow, modPort_stays (by rw [none])]
  | leaseExpiry id =>
    have none := Option.not_isSome_iff_eq_none.mp (mt (leaseDue_iff s id).mp hd)
    rw [exec, execLeaseExpiry, State.whenReleased_high hlow, none]
  | refreshTimerExpiry g =>
    rw [exec, execRefreshTimerExpiry, State.whenReleased_high hlow, if_neg (mt (refreshDue_iff s g).mp hd)]
  | measurementExpiry n =>
    have none := Option.not_isSome_iff_eq_none.mp (mt (measurementDue_iff s n).mp hd)
    rw [exec, execMeasurementExpiry, State.whenReleased_high hlow, none]
  | _ => cases hc

/-- Settles O2: the empty queue by what the part holds, then the expiry rows. -/
theorem emptyQueueLetsTimePass : Obligations.EmptyQueueLetsTimePass := by
  refine ⟨fun s hp => ⟨step_low hp, fun hlow hw => ?_, fun hlow hw hd => ?_, fun hlow hw hd => ?_⟩,
    fun c s => exec_notDue⟩
  · refine ⟨_, step_begins hp hlow hw, rfl, fun p => ⟨fun waits => ?_, fun idle => ?_⟩⟩
    · rw [port_beginFrames]
      exact PortState.begins_pump _ waits
    · rw [port_beginFrames, pump_of_not_waits idle]
  · obtain ⟨c, hc⟩ := hd
    cases found : s.dueExpiry with
    | none => exact absurd hc (State.dueExpiry_none hlow found c)
    | some d => exact ⟨d, (State.dueExpiry_due found).2, step_due hp hw found⟩
  · have nothing : s.dueExpiry = none := Option.eq_none_iff_forall_ne_some.mpr fun c found =>
      hd c (State.dueExpiry_due found).2
    refine ⟨_, step_tick hp (State.waitsToBegin_eq_false hw) nothing, ?_⟩
    exact ⟨by rw [State.tick_eq hlow], by rw [State.tick_eq hlow], port_tick hlow, line_tick hlow, group_tick hlow⟩

end Sys2Proof.Machine
end

section
/-! PROOFS. The arrival of a frame at its port (R67, R79, R127), and the frames formed in answer to it (R70, R71), as
every row of a transfer meets them. -/

namespace Sys2Proof.Machine

/-! ### A frame at its port -/

/-- A frame row at a port that listens is the arrival of its frame (R67). -/
theorem exec_frame {i : Instr} {p : Port} {kind : MasterKind} {payload : List Byte} {s : State}
    (hi : frameOf i = some (p, kind, payload)) (h : Listens s p) : exec i s = .next (s.arrive p kind payload) := by
  obtain ⟨hlow, hbrk⟩ := h
  rw [exec_of_frameOf hi, State.frameRow, State.whenReleased_high hlow, PortState.held_of_ne_brk hbrk,
    if_neg Bool.false_ne_true]

/-- A frame that changes its port alone: the paused flag is cleared before it, and delivery judges after it (R127). -/
theorem arrive_port {s : State} {p : Port} {kind : MasterKind} {payload : List Byte} {f : PortState → PortState}
    (hf : (s.modPort p PortState.resumed).takeFrame p kind payload = (s.modPort p PortState.resumed).modPort p f) :
    s.arrive p kind payload = s.modPort p fun ps => (f ps.resumed).deliver (s.enabled p) := by
  have arrives : s.arrive p kind payload = ((s.modPort p PortState.resumed).takeFrame p kind payload).judge p := rfl
  rw [arrives, hf, State.judge, modPort_modPort, modPort_modPort]
  rfl

/-- Only a port in IDLE is free (R78). -/
theorem PortState.free_of_session {ps : PortState} (h : ps.session ≠ .idle) : ps.free = false := by
  simp [PortState.free, h]

/-- Delivery has nothing to judge at a port that is not free (R121). -/
theorem judge_notFree {s : State} {p : Port} (h : (s.port p).free = false) : s.judge p = s :=
  modPort_stays (PortState.deliver_notFree _ _ h)

/-- A frame that does not leave its port free: what it makes of the part is all that the row does. -/
theorem exec_frame_notFree {i : Instr} {p : Port} {kind : MasterKind} {payload : List Byte} {s made : State}
    (hi : frameOf i = some (p, kind, payload)) (h : Listens s p)
    (hr : (s.modPort p PortState.resumed).takeFrame p kind payload = made) (hb : (made.port p).free = false) :
    exec i s = .next made := by
  have arrives : s.arrive p kind payload = ((s.modPort p PortState.resumed).takeFrame p kind payload).judge p := rfl
  rw [exec_frame hi h, arrives, hr, judge_notFree hb]

/-- A frame that changes its port alone, and does not leave it free. -/
theorem exec_frame_port {i : Instr} {p : Port} {kind : MasterKind} {payload : List Byte} {s : State}
    {f : PortState → PortState} (hi : frameOf i = some (p, kind, payload)) (h : Listens s p)
    (hf : (s.modPort p PortState.resumed).takeFrame p kind payload = (s.modPort p PortState.resumed).modPort p f)
    (hb : (f (s.port p).resumed).free = false) : exec i s = .next (s.modPort p fun ps => f ps.resumed) :=
  exec_frame_notFree hi h (hf.trans (modPort_modPort ..)) (by rwa [port_modPort_same])

/-! ### A frame formed -/

/-- Where the report of no queued frame changes the port, a frame formed changes the transmitter alone. -/
theorem PortState.form_silent {ps : PortState} (f : TxFrame)
    (h : ∀ oldest ∈ ps.tx.queue, ∀ tx, { ps with tx := tx }.reportSession oldest = { ps with tx := tx }) :
    ps.form f = { ps with tx := (ps.form f).tx } := by
  by_cases room : ps.tx.queue.length < 4
  · rw [PortState.form_room ps f room, PortState.pump_eq]
  · cases hq : ps.tx.queue with
    | nil => simp [hq] at room
    | cons oldest rest =>
      rw [hq, List.length_cons] at room
      rw [PortState.form_full ps f oldest rest hq (by omega), h oldest (by simp [hq]), PortState.pump_eq]

/-- A port that neither sends a read nor closes a transfer waits for the report of no session frame (R97, R103). -/
theorem PortState.reportSession_notClosing {ps : PortState} (f : TxFrame) (hs : ps.session ≠ .sending)
    (hc : ∀ t ∈ ps.transfer, t.closing = false) : ps.reportSession f = ps := by
  unfold PortState.reportSession
  cases f.origin with
  | reply => rfl
  | notice => rfl
  | segment seq =>
    unfold PortState.startTAck
    cases ps.transfer with
    | none => rfl
    | some t => exact if_neg fun c => hs c.1
  | closing =>
    unfold PortState.close
    cases ht : ps.transfer with
    | none => rfl
    | some t => simp [hc t ht]

/-- A transfer that is closing waits for the report of its FIN alone (R103). -/
theorem PortState.reportSession_notFin {ps : PortState} {t : Transfer} (f : TxFrame) (ht : ps.transfer = some t)
    (hc : t.closing = true) (ho : f.origin ≠ .closing) : ps.reportSession f = ps := by
  unfold PortState.reportSession
  cases h : f.origin with
  | reply => rfl
  | notice => rfl
  | segment seq => simp [PortState.startTAck, ht, hc]
  | closing => exact absurd h ho

/-- The FIN of an open transfer: its frame joins, the transfer is closing, and no timer runs (R103). -/
theorem PortState.finish_noFin {ps : PortState} (t : Transfer) (outcome : FinOutcome) (gen : Gen) (detail : Byte)
    (hq : ps.tx.noFin) :
    (ps.finish t outcome gen detail).tx.frames = ps.tx.joined (finFrame t.tag outcome.byte gen detail) ∧
      ps.finish t outcome gen detail =
        { ps with tx := (ps.finish t outcome gen detail).tx, tSeg := none, tAck := none
                  transfer := some { t with closing := true } } := by
  refine ⟨PortState.frames_form _ _, PortState.form_silent
    (ps := { ps with transfer := some { t with closing := true }, tSeg := none, tAck := none }) _
    fun oldest ho tx => ?_⟩
  exact PortState.reportSession_notFin _ rfl rfl (hq oldest ho)

/-- A frame formed puts nothing into the notice slot. -/
theorem PortState.slot_form {ps : PortState} (f : TxFrame) (h : ps.tx.slot = none) : (ps.form f).tx.slot = none := by
  have begun (qs : PortState) (hs : qs.tx.slot = none) : qs.pump.tx.slot = none := by
    unfold PortState.pump
    split
    · exact hs
    · split
      · exact hs
      · rw [hs]
        exact hs
  unfold PortState.form
  split
  · split
    · refine begun _ ?_
      rw [PortState.reportSession_eq]
      exact h
    · exact begun _ h
  · exact begun _ h

end Sys2Proof.Machine
end

section
/-! PROOFS. FRAME_SENT of a transfer's FIN, of a DAT and of an NTC: the report that each producer waits for (R97, R103,
R123). -/

namespace Sys2Proof.Machine

/-- The report of a FIN that is off the line closes its transfer (R103, R104). -/
theorem PortState.lineFree_closing {ps : PortState} {f : TxFrame} {x : Transfer} (wait : Nat) (ho : f.origin = .closing)
    (ht : ps.transfer = some x) (hc : x.closing = true) :
    ps.lineFree f wait =
      { ps with
        tx := { ps.tx with sending := none }
        record := some { request := x.request, replyKind := .fin, reply := f.payload }, buffer := [], transfer := none
        session := .idle } := by
  rw [PortState.lineFree, PortState.reportSent, if_neg (by simp [ho]),
    PortState.reportSession_closing (ps := { ps with tx := { ps.tx with sending := none } }) ho ht hc]

/-- The report of a DAT starts T_ack of the open read whose current segment it names, and of no other (R97). -/
theorem PortState.lineFree_segment {ps : PortState} {f : TxFrame} {x : Transfer} {seq : Nat} (wait : Nat)
    (ho : f.origin = .segment seq) (hs : ps.session = .sending) (ht : ps.transfer = some x) (hc : x.closing = false)
    (hg : x.snapGen.isSome = true) :
    ps.lineFree f wait =
      { ps with
        tx := { ps.tx with sending := none }
        tAck := if seq = x.seq then some x.wait else ps.tAck } := by
  simp only [PortState.lineFree, PortState.reportSent, ho, reduceCtorEq, if_false, PortState.reportSession,
    PortState.startTAck, ht, hs, hc, hg, true_and]
  by_cases h : seq = x.seq
  · rw [if_pos h, if_pos h.symm]
  · rw [if_neg h, if_neg (Ne.symm h)]

/-- The report of an NTC starts T_ntc where it was the copy placed last (R123). -/
theorem PortState.lineFree_notice {ps : PortState} {f : TxFrame} (wait : Nat) (ho : f.origin = .notice)
    (hs : ps.session = .notifying) (hn : ps.notice.outstanding.isSome = true) :
    ps.lineFree f wait =
      { ps with
        tx := { ps.tx with sending := none }
        notice := { ps.notice with tNtc := if ps.tx.slot = none then some wait else ps.notice.tNtc } } := by
  simp only [PortState.lineFree, PortState.reportSent, ho, if_true, PortState.reportNotice, hs, hn, true_and]
  split
  · rfl
  · rfl

/-- FRAME_SENT at a port that its report does not free: the next frame is begun, and delivery does nothing. -/
theorem exec_frameSent_notFree {p : Port} {s : State} {f : Sending} (hlow : s.resetLow = false)
    (hf : (s.port p).tx.sending = some f)
    (hs : ((s.port p).lineFree f.frame (s.image.liveWord 52).toNat).session ≠ .idle) :
    exec (.frameSent p) s =
      .next (s.modPort p fun ps => (ps.lineFree f.frame (s.image.liveWord 52).toNat).pump) := by
  rw [exec_frameSent_busy hlow hf]
  refine congrArg _ (modPort_congr (PortState.deliver_notFree _ _ (PortState.free_of_session ?_)))
  rw [PortState.pump_eq]
  exact hs

/-- Settles O13: the report closes the transfer; the next frame and delivery change no more than the statement names. -/
theorem finSentClosesTheTransfer : Obligations.FinSentClosesTheTransfer := by
  intro p s f x h hf ho ht hc
  refine ⟨_, exec_frameSent_busy h.1 hf, onlyPort_modPort .., ?_⟩
  rw [port_modPort_same]
  have closed := PortState.lineFree_closing (s.image.liveWord 52).toNat ho ht hc
  generalize (s.port p).lineFree f.frame (s.image.liveWord 52).toNat = a at closed ⊢
  have told := PortState.sameNotices_deliver a.pump (s.enabled p)
  have session := PortState.session_deliver a.pump (s.enabled p)
  rw [PortState.deliver_eq, PortState.pump_eq, closed] at told session ⊢
  exact ⟨rfl, rfl, rfl, session, told, rfl⟩

/-- Settles O14: the DAT of an open read, then the NTC of the outstanding notice; neither frees its port. -/
theorem sentFramesStartTheirWaits : Obligations.SentFramesStartTheirWaits := by
  intro p s f h hf
  refine ⟨fun x seq hx hg ho => ?_, fun ho hs hn => ?_⟩
  · obtain ⟨-, hs, ht, hc, -⟩ := hx
    have sent := PortState.lineFree_segment (s.image.liveWord 52).toNat ho hs ht hc hg
    refine ⟨_, exec_frameSent_notFree h.1 hf (by simp [sent, hs]), onlyPort_modPort .., ?_⟩
    rw [port_modPort_same, sent, PortState.pump_eq]
    exact ⟨rfl, rfl⟩
  · have sent := PortState.lineFree_notice (s.image.liveWord 52).toNat ho hs hn
    refine ⟨_, exec_frameSent_notFree h.1 hf (by simp [sent, hs]), onlyPort_modPort .., ?_⟩
    rw [port_modPort_same, sent, PortState.pump_eq]
    exact ⟨rfl, rfl⟩

end Sys2Proof.Machine
end

section
/-! PROOFS. A REQ that is answered and not performed: from the record, with BUSY or ACCEPT again, with BADTAG or BADOP
(R80, R82, R84, R105); a DAT answered from the record (R106); PING (R85). -/

namespace Sys2Proof.Machine

/-! ### A REQ at rest -/

/-- A REQ at a port at rest: the port is readied, the request judged, and delivery judges after it (R80, R81, R127). -/
theorem exec_req_atRest {i : Instr} {p : Port} {request : List Byte} {s : State}
    (hi : frameOf i = some (p, .req, request)) (h : Listens s p) (hr : AtRest (s.port p)) :
    exec i s = .next (((s.modPort p PortState.readied).judgeRequest p request).judge p) := by
  obtain ⟨hs, -, hb⟩ := hr
  have taken : (s.modPort p PortState.resumed).takeReq p request =
      (s.modPort p PortState.readied).judgeRequest p request := by
    rw [State.takeReq, if_neg (length_of_frameOf_req hi), port_modPort_same]
    rcases hs with hs | hs
    · rw [modPort_congr (f := PortState.readied) (g := PortState.resumed)
        (by simp [PortState.readied, PortState.resumed, hs])]
      simp [PortState.resumed, PortState.modNotice, hs, hb]
    · rw [modPort_congr (f := PortState.readied) (g := fun ps => ps.resumed.suspendNotice)
        (by simp [PortState.readied, PortState.resumed, hs])]
      simp [PortState.resumed, PortState.modNotice, hs, modPort_modPort]
  have arrives : s.arrive p .req request = ((s.modPort p PortState.resumed).takeReq p request).judge p := rfl
  rw [exec_frame hi h, arrives, taken]

/-- A REQ at rest whose judging changes its port alone. -/
theorem exec_req_answered {i : Instr} {p : Port} {request : List Byte} {s : State} {f : PortState → PortState}
    (hi : frameOf i = some (p, .req, request)) (h : Listens s p) (hr : AtRest (s.port p))
    (hj : (s.modPort p PortState.readied).judgeRequest p request = (s.modPort p PortState.readied).modPort p f) :
    exec i s = .next (s.modPort p fun ps => (f ps.readied).deliver (s.enabled p)) := by
  rw [exec_req_atRest hi h hr, hj, State.judge, modPort_modPort, modPort_modPort]
  rfl

/-- The readying of a port leaves its record. -/
theorem record_readied {s : State} {p : Port} (hr : AtRest (s.port p)) :
    ((s.modPort p PortState.readied).port p).record = (s.port p).record := by
  rw [port_modPort_same, PortState.readied_eq hr.1]

/-- A request that the record holds is answered from it (R105). -/
theorem judgeRequest_recorded {s : State} {p : Port} {x : Exchange} (hx : (s.port p).record = some x) :
    s.judgeRequest p x.request = s.modPort p fun ps => ps.resendRecord x := by
  have found : (s.port p).record.filter (fun y => y.request = x.request) = some x := by simp [hx]
  rw [State.judgeRequest, found]

/-- A request that the record does not hold goes on to the checks of its tag and its operation (R80, steps 3 to 5). -/
theorem judgeRequest_new {s : State} {p : Port} {request : List Byte}
    (hrec : ∀ x ∈ (s.port p).record, x.request ≠ request) :
    (tagOf request = 0 →
      s.judgeRequest p request = s.modPort p fun ps => ps.form (rspFrame request 0x1C [0, 0])) ∧
    (tagOf request ≠ 0 → requestOfPayload request = none →
      s.judgeRequest p request = s.modPort p fun ps => ps.refuse request .badop 0) := by
  have new : (s.port p).record.filter (fun x => x.request = request) = none := by
    rw [Option.filter_eq_none_iff]
    simpa using hrec
  rw [State.judgeRequest, new]
  refine ⟨fun htag => ?_, fun htag hnone => ?_⟩
  · rw [if_pos htag]
    rfl
  · rw [if_neg htag, hnone]

/-! ### A reply that is not final -/

/-- A frame formed at a port at rest, and delivery after it, are all that its master sees (R84, R121). -/
theorem PortState.answersPlain_form {a b : PortState} (f : TxFrame) (enabled : Bool) (hab : OnlyDelivery a b)
    (hn : SameNotices a.notice b.notice) (hs : b.session = .idle ∨ b.session = .notifying) (ht : b.transfer = none) :
    AnswersPlain a ((b.form f).deliver enabled) f := by
  have frames := PortState.frames_form b f
  have formed := PortState.form_atRest b f ht
  generalize b.form f = c at frames formed ⊢
  have told := PortState.sameNotices_deliver c enabled
  have session := PortState.session_deliver c enabled
  refine ⟨?_, ?_, ?_, ?_, ?_⟩
  · rw [PortState.frames_deliver]
    show c.tx.frames = _
    rw [frames, show b = _ from hab]
    rfl
  · rw [PortState.deliver_eq, formed, show b = _ from hab]
  · rw [PortState.deliver_eq, formed, show b = _ from hab]
  · refine hn.trans ?_
    rw [formed] at told ⊢
    exact told
  · rw [show c.session = b.session by rw [formed]] at session
    rcases session with k | k
    · rwa [k]
    · exact .inr k

/-- The same at a port that a REQ has readied (R81, R84). -/
theorem PortState.answersPlain_readied {ps : PortState} (h : AtRest ps) (f : TxFrame) (enabled : Bool) :
    AnswersPlain ps ((ps.readied.form f).deliver enabled) f := by
  have ready := PortState.readied_eq h.1
  generalize ps.readied = r at ready ⊢
  have idle : r.session = .idle := by rw [ready]
  refine PortState.answersPlain_form f enabled ?_ ?_ (.inl idle) ?_
  · unfold OnlyDelivery
    rw [ready]
  · rw [ready]
    exact ⟨rfl, rfl, rfl⟩
  · rw [ready]
    exact h.2.1

/-! ### The record answers -/

/-- The seq that a DAT of the last segment of a recorded WRITE or MWRITE has (R106). -/
theorem Exchange.lastSeq_of_request {y : Exchange} {op : TransferOp} {tag area flags : Byte} {first count : Word}
    (hk : y.replyKind = .fin) (hop : op ≠ .read) (hr : y.request = op.request tag area flags first count) :
    y.lastSeq = some (segmentCount op count.toNat - 1) ∧ tagOf y.request = tag := by
  unfold Exchange.lastSeq
  rw [hr, if_neg (by simp [hk])]
  cases op with
  | read => exact absurd rfl hop
  | write => simp [TransferOp.request]
  | mwrite => simp [TransferOp.request]

/-- A DAT at a port at rest is put to the record (R106). -/
theorem takeDat_atRest {s : State} {p : Port} (hs : (s.port p).session = .idle ∨ (s.port p).session = .notifying)
    (tag seq : Byte) (data : List Byte) :
    s.takeDat p (tag :: seq :: data) = s.modPort p fun ps => ps.repeatedDat tag seq := by
  rw [State.takeDat]
  rcases hs with hs | hs <;> simp only [hs]

/-- Settles O16: the record is looked up before anything else, for a request and for a DAT at rest. -/
theorem recordAnswersRepeats : Obligations.RecordAnswersRepeats := by
  refine ⟨fun i p request s x hi h hr hx he => ?_, fun p s y op tag area flags seq first count data h hr hy hk hop hreq
    hseq => ?_⟩
  · subst he
    have judged := judgeRequest_recorded ((record_readied hr).trans hx)
    refine ⟨_, exec_req_answered hi h hr judged, onlyPort_modPort .., ?_⟩
    rw [port_modPort_same]
    exact PortState.answersPlain_readied hr _ _
  · obtain ⟨last, htag⟩ := Exchange.lastSeq_of_request hk hop hreq
    have answer : (s.port p).resumed.repeatedDat tag seq = (s.port p).resumed.resendRecord y := by
      have record : (s.port p).resumed.record = some y := hy
      rw [PortState.repeatedDat, record]
      exact if_pos ⟨htag.symm, by rw [last, hseq]⟩
    have taken : (s.modPort p PortState.resumed).takeFrame p .dat (tag :: seq :: data) =
        (s.modPort p PortState.resumed).modPort p fun ps => ps.repeatedDat tag seq :=
      takeDat_atRest (by rw [port_modPort_same]; exact hr.1) tag seq data
    refine ⟨_, (exec_frame rfl h).trans (congrArg _ (arrive_port taken)), onlyPort_modPort .., ?_⟩
    rw [port_modPort_same, answer, PortState.resendRecord, hk]
    exact PortState.answersPlain_form _ _ rfl ⟨rfl, rfl, rfl⟩ hr.1 hr.2.1

/-! ### Requests that are refused before they are performed -/

/-- The bytes of a word that two bytes make are those two (R74). -/
@[simp] theorem wordBytes_wordOf (hi lo : Byte) : wordBytes (wordOf hi lo) = [hi, lo] := by
  have high : hiByte (wordOf hi lo) = hi :=
    (BitVec.extractLsb'_append_eq_of_le (Nat.le_refl 8)).trans BitVec.extractLsb'_eq_self
  have low : loByte (wordOf hi lo) = lo :=
    (BitVec.extractLsb'_append_eq_of_add_le (Nat.le_refl 8)).trans BitVec.extractLsb'_eq_self
  rw [wordBytes, high, low]

/-- A request is read only from its own operation code and its own fields (R74): code by code, of the lists of bytes
those of the one length that fits. -/
theorem requestOf_eq_some {op : Byte} {fields : List Byte} {r : Request} (h : requestOf op fields = some r) :
    r.op = op ∧ r.fields = fields := by
  unfold requestOf at h
  generalize hop : op.toNat = code at h
  have named {c : Byte} (hc : c.toNat = code) : c = op := BitVec.eq_of_toNat_eq (hc.trans hop.symm)
  rcases code with _ | _ | _ | _ | _ | _ | _ | _ | _ | _ | _ | _ | code
  · cases h
  -- READ, WRITE and MWRITE
  iterate 3
    rcases fields with _ | ⟨a, _ | ⟨f, _ | ⟨i1, _ | ⟨i0, _ | ⟨n1, _ | ⟨n0, _ | ⟨x, rest⟩⟩⟩⟩⟩⟩⟩ <;> cases h
    exact ⟨named rfl, by simp [Request.fields]⟩
  -- HOLD
  · rcases fields with _ | ⟨a, _ | ⟨i1, _ | ⟨i0, _ | ⟨n1, _ | ⟨n0, _ | ⟨l1, _ | ⟨l0, _ | ⟨x, rest⟩⟩⟩⟩⟩⟩⟩⟩ <;> cases h
    exact ⟨named rfl, by simp [Request.fields]⟩
  -- RELEASE
  · rcases fields with _ | ⟨i, _ | ⟨x, rest⟩⟩ <;> cases h
    exact ⟨named rfl, rfl⟩
  -- RENEW
  · rcases fields with _ | ⟨i, _ | ⟨l1, _ | ⟨l0, _ | ⟨x, rest⟩⟩⟩⟩ <;> cases h
    exact ⟨named rfl, by simp [Request.fields]⟩
  -- SUBSCRIBE
  · rcases fields with _ | ⟨a, _ | ⟨f, _ | ⟨i1, _ | ⟨i0, _ | ⟨n1, _ | ⟨n0, _ | ⟨x, rest⟩⟩⟩⟩⟩⟩⟩ <;> cases h
    exact ⟨named rfl, by simp [Request.fields]⟩
  -- UNSUBSCRIBE
  · rcases fields with _ | ⟨i, _ | ⟨x, rest⟩⟩ <;> cases h
    exact ⟨named rfl, rfl⟩
  -- SWAP, COPY and PING
  iterate 3
    rcases fields with _ | _ <;> cases h
    exact ⟨named rfl, rfl⟩
  cases h

/-- Bytes that are no request of R74: the operation code is unknown or the length not its own (R80, steps 4 and 5). -/
theorem requestOf_eq_none {op : Byte} {fields : List Byte} (h : requestFieldBytes op.toNat ≠ some fields.length) :
    requestOf op fields = none := by
  rw [Option.eq_none_iff_forall_ne_some]
  intro r hr
  obtain ⟨rfl, rfl⟩ := requestOf_eq_some hr
  exact h (by cases r <;> rfl)

/-- Settles O19: a new request fails at its tag, or at its operation. -/
theorem badRequestIsRefused : Obligations.BadRequestIsRefused := by
  refine ⟨fun i p request s hi h hr htag hrec => ?_, fun p tag op fields s hwf h => ?_⟩
  · have judged := (judgeRequest_new (by rwa [record_readied hr])).1 htag
    refine ⟨_, exec_req_answered hi h hr judged, onlyPort_modPort .., ?_⟩
    rw [port_modPort_same]
    exact PortState.answersPlain_readied hr _ _
  · obtain ⟨hl, hr, htag, hrec⟩ := h
    have unknown : requestOf op fields = none := by
      simp only [Instr.wellFormed, Bool.and_eq_true, bne_iff_ne] at hwf
      exact requestOf_eq_none hwf.2
    have judged := (judgeRequest_new (by rwa [record_readied hr])).2 htag unknown
    refine ⟨_, exec_req_answered rfl hl hr judged, ?_, onlyPort_modPort ..⟩
    rw [port_modPort_same]
    exact PortState.answersFinal_readied hr _ .badop _ _

/-! ### A REQ at a port in use -/

/-- A port with a transfer open or a commit on its way, or pending (R78). -/
abbrev PortState.Occupied (ps : PortState) : Prop :=
  ps.InUse ∨ ps.session = .idle ∧ ps.bankRequest.isSome = true

theorem PortState.free_of_occupied {ps : PortState} (h : ps.Occupied) : ps.free = false := by
  rcases h with (hs | hs | hs) | ⟨-, hb⟩
  · exact PortState.free_of_session (by simp [hs])
  · exact PortState.free_of_session (by simp [hs])
  · exact PortState.free_of_session (by simp [hs])
  · exact PortState.free_of_pending (Option.isSome_iff_ne_none.mp hb)

/-- A REQ at an occupied port is answered as R82 says. -/
theorem takeReq_occupied {s : State} {p : Port} {request : List Byte} (hlen : ¬request.length < 2)
    (h : (s.port p).Occupied) : s.takeReq p request = s.modPort p fun ps => ps.busy request := by
  rw [State.takeReq, if_neg hlen]
  rcases h with (hs | hs | hs) | ⟨hs, hb⟩
  · rw [hs]
  · rw [hs]
  · rw [hs]
  · rw [hs]
    exact if_pos hb

/-- A repeat of the open request is dropped before the snapshot and while closing, and else accepted again (R82). -/
theorem PortState.busy_repeat {ps : PortState} {x : Transfer} (ht : ps.transfer = some x) :
    ps.busy x.request =
      if x.closing = true ∨ ps.session = .sending ∧ x.snapGen = none then ps
      else ps.form (rspFrame x.request 0x00 x.acceptDetail) := by
  have same : ps.transfer.filter (fun t => t.request = x.request) = some x := by simp [ht]
  rw [PortState.busy, same]
  rfl

/-- Where the queue has room, an answer of R82 changes the transmitter alone. -/
theorem PortState.busy_room {ps : PortState} (request : List Byte) (room : ps.tx.queue.length < 4) :
    ps.busy request = { ps with tx := (ps.busy request).tx } := by
  have formed (f : TxFrame) : ps.form f = { ps with tx := (ps.form f).tx } :=
    (PortState.form_room_effect f room).2.2
  unfold PortState.busy
  split
  · split
    · rfl
    · exact formed _
  · exact formed _

/-- A request row at an occupied port whose queue has room. -/
theorem exec_req_occupied {i : Instr} {p : Port} {request : List Byte} {s : State}
    (hi : frameOf i = some (p, .req, request)) (h : Listens s p) (ho : (s.port p).Occupied)
    (room : (s.port p).tx.queue.length < 4) :
    exec i s = .next (s.modPort p fun ps => ps.resumed.busy request) := by
  refine exec_frame_port hi h (takeReq_occupied (length_of_frameOf_req hi) ?_) ?_
  · rw [port_modPort_same]
    exact ho
  · rw [PortState.busy_room (ps := (s.port p).resumed) request room]
    exact PortState.free_of_occupied (ps := (s.port p).resumed) ho

/-- Settles O17: BUSY to another request, then the repeat of the open one. -/
theorem requestAtAPortInUse : Obligations.RequestAtAPortInUse := by
  refine ⟨fun i p request s hi h hs hne room => ?_, fun i p s x hi h ht hs room => ?_⟩
  · have ho : (s.port p).Occupied := by
      rcases hs with hs | hs | hs | hs
      · exact .inl (.inl hs)
      · exact .inl (.inr (.inl hs))
      · exact .inl (.inr (.inr hs))
      · exact .inr hs
    refine ⟨_, exec_req_occupied hi h ho room, onlyPort_modPort .., ?_⟩
    rw [port_modPort_same]
    refine ⟨?_, PortState.busy_room (ps := (s.port p).resumed) request room⟩
    rw [PortState.busy_other (ps := (s.port p).resumed) hne]
    exact PortState.frames_form _ _
  · refine ⟨_, exec_req_occupied hi h (.inl hs) room, onlyPort_modPort .., ?_⟩
    rw [port_modPort_same]
    refine ⟨PortState.busy_room (ps := (s.port p).resumed) x.request room, ?_⟩
    rw [PortState.busy_repeat (ps := (s.port p).resumed) ht]
    have session : (s.port p).resumed.session = (s.port p).session := rfl
    rw [session]
    split
    · rfl
    · exact PortState.frames_form _ _

/-! ### PING -/

/-- Delivery leaves the paused flag and T_ntc (R121). -/
theorem PortState.timing_deliver (ps : PortState) (enabled : Bool) :
    (ps.deliver enabled).notice.paused = ps.notice.paused ∧ (ps.deliver enabled).notice.tNtc = ps.notice.tNtc := by
  unfold PortState.deliver PortState.send
  split
  · split
    · exact ⟨rfl, rfl⟩
    · split <;> exact ⟨rfl, rfl⟩
  · exact ⟨rfl, rfl⟩

/-- A first transmission starts the retry count afresh, and a further one leaves it (R121). -/
theorem PortState.retry_deliver {ps : PortState} {e : Notice} {rest : List Notice} (hr : ps.readyToSend = true)
    (hq : ps.notice.queue = e :: rest) :
    (ps.deliver true).notice.retry = if e.sent.isSome then ps.notice.retry else 0 := by
  have sends : ps.deliver true = ps.send := by simp [PortState.deliver, hr]
  rw [sends, PortState.send, hq]
  dsimp only
  split <;> rfl

/-- The readying of a port stops T_ntc in NOTIFYING alone (R126). -/
theorem PortState.tNtc_readied (ps : PortState) :
    ps.readied.notice.tNtc = if ps.session = .notifying then none else ps.notice.tNtc := by
  by_cases h : ps.session = .notifying
  · rw [if_pos h]
    exact (PortState.readied_notifying h).1
  · rw [if_neg h, PortState.readied, if_neg h]
    rfl

/-- A port at rest that has answered a request, delivery aside: readied, with the reply formed and recorded (R81, R84). -/
theorem PortState.respond_readied {ps : PortState} (h : AtRest ps) (request : List Byte) (code : ReplyCode)
    (detail : List Byte) :
    let a := ps.readied.respond request code detail true
    a =
      { ps with
        tx := a.tx, record := a.record, session := .idle
        notice := { ps.notice with
          paused := false, tNtc := if ps.session = .notifying then none else ps.notice.tNtc } } := by
  have ready := PortState.readied_eq h.1
  rw [PortState.tNtc_readied] at ready
  generalize ps.readied = r at ready ⊢
  have noTransfer : r.transfer = none := by
    rw [ready]
    exact h.2.1
  intro a
  have formed : a = _ := (PortState.respond_final r request code detail noTransfer).2
  rw [formed, ready]

/-- Settles O15: the reply is formed at the readied port, and delivery judges there. -/
theorem pingReportsThePart : Obligations.PingReportsThePart := by
  intro p tag s h
  obtain ⟨⟨-, hbrk⟩, hr, -⟩ := id h
  let detail := genBytes s.image.gen ++ [BitVec.ofNat 8 s.image.live.toNat, (s.port p).notice.lost]
  have answered : exec (.ping p tag) s = .next (s.modPort p fun ps =>
      (ps.readied.respond [tag, 11] .done detail true).deliver (s.enabled p)) := by
    have lost : (s.port p).readied.notice.lost = (s.port p).notice.lost := by rw [PortState.readied_eq hr.1]
    rw [exec_performs (r := .ping) rfl h, State.perform, State.performPing, State.judge, modPort_modPort,
      modPort_modPort]
    refine congrArg _ (modPort_congr ?_)
    rw [lost]
    rfl
  refine ⟨_, answered, onlyPort_modPort .., ?_⟩
  rw [port_modPort_same]
  refine ⟨PortState.answersFinal_readied hr [tag, 11] .done detail (s.enabled p), ?_⟩
  have formed := PortState.respond_readied hr [tag, 11] .done detail
  generalize (s.port p).readied.respond [tag, 11] .done detail true = a at formed ⊢
  have idle : a.session = .idle ∧ a.bankRequest = none ∧ a.held = false := by
    rw [formed]
    exact ⟨rfl, hr.2.2, PortState.held_of_ne_brk hbrk⟩
  have notice : a.notice = { (s.port p).notice with
      paused := false, tNtc := if (s.port p).session = .notifying then none else (s.port p).notice.tNtc } := by
    rw [formed]
  obtain ⟨session, bankRequest, held⟩ := idle
  obtain ⟨paused, timer⟩ := PortState.timing_deliver a (s.enabled p)
  rw [notice] at paused timer
  refine ⟨paused, timer, fun silent => ?_, fun e rest hon hq => ?_⟩
  · rw [PortState.deliver_nothing _ _ (silent.imp_right fun hq => by rw [notice]; exact hq), notice]
    exact ⟨session, rfl, rfl⟩
  · have queue : a.notice.queue = e :: rest := by rw [notice]; exact hq
    have sends : a.readyToSend = true :=
      (PortState.readyToSend_iff _).mpr ⟨session, bankRequest, held, by rw [notice], by simp [queue]⟩
    obtain ⟨notifying, sent, slot, seqCounter⟩ := PortState.deliver_sends sends queue
    have retry := PortState.retry_deliver sends queue
    rw [notice] at sent slot seqCounter retry
    rw [hon]
    refine ⟨notifying, fun he => ?_, fun he => ?_⟩
    · simp only [NoticeState.headSent, he, if_true] at sent slot retry
      exact ⟨sent, retry, slot⟩
    · simp only [NoticeState.headSent, he, Option.isSome_none, Bool.false_eq_true, if_false] at sent seqCounter retry
      exact ⟨sent, seqCounter, retry⟩

end Sys2Proof.Machine
end

section
/-! PROOFS. The segments of a transfer (R87), and READ, WRITE and MWRITE accepted or refused (R86, R88 to R90). -/

namespace Sys2Proof.Machine

/-! ### Segments -/

/-- The segment count is the count over the segment size, rounded up (R87). -/
theorem segmentCount_bounds (op : TransferOp) {count : Nat} (h : 1 ≤ count) :
    op.segmentSize * (segmentCount op count - 1) < count ∧ count ≤ op.segmentSize * segmentCount op count := by
  cases op <;> simp only [segmentCount, TransferOp.segmentSize] <;> omega

/-- A count within the operation's limit makes 1 to 8 segments (R5, R87). -/
theorem segmentCount_limits (op : TransferOp) {count : Nat} (h : 1 ≤ count) (hl : count ≤ op.limit) :
    1 ≤ segmentCount op count ∧ segmentCount op count ≤ 8 := by
  cases op <;> simp only [segmentCount, TransferOp.segmentSize, TransferOp.limit] at hl ⊢ <;> omega

/-- Every segment before the last is full (R87). -/
theorem segmentUnits_before_last (op : TransferOp) {count k : Nat} (hk : k + 1 < segmentCount op count) :
    segmentUnits op count k = op.segmentSize := by
  cases op <;> simp only [segmentUnits, segmentCount, TransferOp.segmentSize] at hk ⊢ <;> omega

/-- The last segment carries what is left (R87). -/
theorem segmentUnits_last (op : TransferOp) {count : Nat} (h : 1 ≤ count) :
    segmentUnits op count (segmentCount op count - 1) = count - op.segmentSize * (segmentCount op count - 1) := by
  have inside := (segmentCount_bounds op h).2
  have pos : 1 ≤ segmentCount op count := Nat.pos_of_ne_zero fun h0 => by simp [h0] at inside; omega
  have next : op.segmentSize * segmentCount op count =
      op.segmentSize * (segmentCount op count - 1) + op.segmentSize := by
    rw [← Nat.mul_succ, Nat.succ_eq_add_one, Nat.sub_add_cancel pos]
  exact Nat.min_eq_right (by omega)

/-- A full segment has 64 bytes, whatever its operation (R87). -/
theorem TransferOp.unitBytes_mul_segmentSize (op : TransferOp) : op.unitBytes * op.segmentSize = 64 := by
  cases op <;> rfl

/-- Settles O25: the bounds of the segment count, then the full segments and the last. -/
theorem segmentsOfATransfer : Obligations.SegmentsOfATransfer := by
  intro op count h1 hl size bytes n
  have hsize : op.segmentSize = size := by cases op <;> rfl
  have hbytes : op.unitBytes = bytes := by cases op <;> rfl
  obtain ⟨one, eight⟩ := segmentCount_limits op h1 hl
  obtain ⟨below, above⟩ := segmentCount_bounds op h1
  rw [← hsize, ← hbytes]
  refine ⟨one, eight, below, above, fun k hk => ?_, ?_⟩
  · rw [expectedLen, segmentUnits_before_last op hk, op.unitBytes_mul_segmentSize]
  · rw [expectedLen, segmentUnits_last op h1]

/-! ### The acceptance checks -/

/-- The areas that admit an operation (R4). -/
theorem Area.admits_iff (area : Area) (op : TransferOp) :
    area.admits op = true ↔ op = .read ∨ area = .out ∨ area = .wrd ∨ area = .prm ∧ op = .write := by
  cases area <;> cases op <;> decide

/-- A range inside its area and within the operation's limit (R5). -/
abbrev TransferFits (op : TransferOp) (area : Area) (first count : Nat) : Prop :=
  1 ≤ count ∧ first + count ≤ area.size ∧ count ≤ op.limit

theorem transferFits_iff {op : TransferOp} {area : Area} {first count : Nat} :
    (rangeInside area first count && count ≤ op.limit) = true ↔ TransferFits op area first count := by
  rw [Bool.and_eq_true, rangeInside_iff, decide_eq_true_eq, and_assoc]

section
variable {holds : List Hold} {p : Port} {op : TransferOp} {area : Area} {first count : Nat}

theorem transferRefusal_readonly (ha : area.admits op = false) :
    transferRefusal holds p op area first count = some (.readonly, 0) := by
  simp [transferRefusal, ha]

theorem transferRefusal_range (ha : area.admits op = true) (h : ¬TransferFits op area first count) :
    transferRefusal holds p op area first count = some (.range, 0) := by
  rw [transferRefusal, ha, Bool.eq_false_iff.mpr (transferFits_iff.not.mpr h)]
  rfl

/-- The last check, which a READ is not put to (R86). -/
theorem transferRefusal_inside (ha : area.admits op = true) (h : TransferFits op area first count) :
    transferRefusal holds p op area first count =
      if op = .read then none
      else (blocking holds p area first (first + count - 1)).map fun id => (.held, idDetail id) := by
  rw [transferRefusal, ha, transferFits_iff.mpr h]
  rfl

end

/-! ### A transfer accepted or refused -/

section
variable {s : State} {p : Port} {request : List Byte} {op : TransferOp} {area : Area} {flags : Byte} {first count : Nat}

theorem performTransfer_badarea {areaCode : Byte} (h : areaOf areaCode = none) :
    s.performTransfer p request op areaCode flags first count = s.modPort p fun ps => ps.refuse request .badarea 0 := by
  rw [State.performTransfer, h]

theorem performTransfer_refused {code : ReplyCode} {detail : Word}
    (h : transferRefusal s.holds p op area first count = some (code, detail)) :
    s.performTransfer p request op area.code flags first count =
      s.modPort p fun ps => ps.refuse request code detail := by
  rw [State.performTransfer, areaOf_code]
  simp only [h]

theorem performTransfer_accepted (h : transferRefusal s.holds p op area first count = none) :
    s.performTransfer p request op area.code flags first count =
      let t := newTransfer s.image request op area (editFlag flags) first count
      if op = .read then s.acceptRead p t else s.acceptWrite p t := by
  rw [State.performTransfer, areaOf_code]
  simp only [h]

end

/-- A READ, WRITE or MWRITE row is the arrival of a request that is put to the acceptance checks (R74, R86). -/
theorem TransferOp.request_spec (op : TransferOp) (p : Port) (tag area flags : Byte) (first count : Word) :
    ∃ r : Request, op.request tag area flags first count = r.payload tag ∧
      frameOf (op.row p tag area flags first count) = some (p, .req, r.payload tag) ∧
      ∀ (s : State) (request : List Byte),
        s.perform p request r = s.performTransfer p request op area flags first.toNat count.toNat := by
  cases op with
  | read => exact ⟨.read area flags first count, rfl, rfl, fun _ _ => rfl⟩
  | write => exact ⟨.write area flags first count, rfl, rfl, fun _ _ => rfl⟩
  | mwrite => exact ⟨.mwrite area flags first count, rfl, rfl, fun _ _ => rfl⟩

/-- A transfer request at a port that is ready for it, whose acceptance does not leave the port free. -/
theorem exec_transfer {op : TransferOp} {p : Port} {tag area flags : Byte} {first count : Word} {s made : State}
    (h : Performs s p (op.request tag area flags first count))
    (hr : (s.modPort p PortState.readied).performTransfer p (op.request tag area flags first count) op area flags
      first.toNat count.toNat = made) (hb : (made.port p).free = false) :
    exec (op.row p tag area flags first count) s = .next made := by
  obtain ⟨r, hreq, hi, hperform⟩ := op.request_spec p tag area flags first count
  rw [hreq] at h hr
  rw [exec_performs hi h, hperform, hr, judge_notFree hb]

/-- A transfer request that an acceptance check refuses (R86). -/
theorem exec_transfer_refused {op : TransferOp} {p : Port} {tag area flags : Byte} {first count : Word} {s : State}
    {code : ReplyCode} {detail : Word} (h : Performs s p (op.request tag area flags first count))
    (hr : (s.modPort p PortState.readied).performTransfer p (op.request tag area flags first count) op area flags
      first.toNat count.toNat =
        (s.modPort p PortState.readied).modPort p fun ps =>
          ps.refuse (op.request tag area flags first count) code detail) :
    ∃ t, exec (op.row p tag area flags first count) s = .next t ∧
      Refused s t p (op.request tag area flags first count) code.byte detail := by
  obtain ⟨r, hreq, hi, hperform⟩ := op.request_spec p tag area flags first count
  rw [hreq] at h hr ⊢
  exact exec_refuses hi h ((hperform _ _).trans hr)

/-- Settles O27: check by check, each refusal is `transferRefusal`'s. -/
theorem transferIsRefusedInOrder : Obligations.TransferIsRefusedInOrder := by
  intro op p tag areaCode flags first count s h refusedWith
  refine ⟨fun unknown => ?_, ?_⟩
  · refine exec_transfer_refused (code := .badarea) h (performTransfer_badarea ?_)
    exact Option.eq_none_iff_forall_ne_some.mpr fun area ha => unknown area (areaOf_eq_some.mp ha)
  · rintro area rfl admitted inside
    have refused (code : ReplyCode) (detail : Word)
        (hr : transferRefusal s.holds p op area first.toNat count.toNat = some (code, detail)) :
        refusedWith code.byte detail := exec_transfer_refused h (performTransfer_refused hr)
    have fits : TransferFits op area first.toNat count.toNat ↔ inside := by
      cases op <;> exact Iff.rfl
    have admits : area.admits op = true ↔ admitted := area.admits_iff op
    refine ⟨fun ha => refused _ _ (transferRefusal_readonly (Bool.eq_false_iff.mpr (admits.not.mpr ha))),
      fun ha hi => refused _ _ (transferRefusal_range (admits.mpr ha) (fits.not.mpr hi)), fun ha hi hop id hid =>
        refused .held _ ?_⟩
    rw [transferRefusal_inside (admits.mpr ha) (fits.mpr hi), if_neg hop, blocking_eq_some hi.1 hid]
    rfl

/-! ### A transfer opened -/

/-- The session record of a WRITE or MWRITE: T_seg from word 50, and for PRM the edit bank as its target (R46, R89). -/
theorem newTransfer_write {im : Image} {request : List Byte} {op : TransferOp} {area : Area} {edit : Bool}
    {first count : Nat} (hop : op ≠ .read) (ha : area = .prm → op = .write) :
    newTransfer im request op area edit first count =
      { request := request, op := op, area := area, edit := edit, first := first, count := count, seq := 0, retry := 0,
        retryLimit := (im.liveWord 53).toNat, wait := (im.liveWord 50).toNat,
        target := if area = .prm then some im.live.other else none, snapGen := none, closing := false } := by
  rw [newTransfer, if_neg hop, if_congr (and_iff_right_of_imp ha) rfl rfl]
  rfl

/-- The port at the acceptance of a WRITE or MWRITE, before its reply is formed (R89). -/
def PortState.openReceiving (ps : PortState) (t : Transfer) : PortState :=
  { ps with transfer := some t, session := .receiving, buffer := [], tSeg := some t.wait }

/-- The port at the acceptance of a READ (R90). -/
def PortState.openSending (ps : PortState) (t : Transfer) : PortState :=
  { ps with transfer := some t, session := .sending }

theorem acceptWrite_eq (s : State) (p : Port) (t : Transfer) :
    s.acceptWrite p t = s.modPort p fun ps => (ps.openReceiving t).accept t := rfl

theorem acceptRead_eq (s : State) (p : Port) (t : Transfer) :
    s.acceptRead p t =
      (s.modPort p fun ps => ps.openSending t).handOver [.snapshot p t.area t.edit t.first t.count] := rfl

/-- ACCEPT is formed where a WRITE or MWRITE opens, and no report that a full queue brings changes more (R71, R89). -/
theorem PortState.accept_openReceiving (ps : PortState) {t : Transfer} (hc : t.closing = false) :
    ((ps.openReceiving t).accept t).tx.frames = ps.tx.joined (rspFrame t.request 0x00 t.acceptDetail) ∧
      (ps.openReceiving t).accept t = { ps.openReceiving t with tx := ((ps.openReceiving t).accept t).tx } := by
  refine ⟨PortState.frames_form _ _, PortState.form_silent _ fun oldest _ tx => ?_⟩
  refine PortState.reportSession_notClosing oldest nofun fun x hx => ?_
  obtain rfl : t = x := Option.some.inj hx
  exact hc

/-- A port at rest that opens a WRITE or MWRITE, as its master sees it (R81, R89). -/
theorem PortState.accept_readied {ps : PortState} {x : Transfer} (h : AtRest ps) (hc : x.closing = false) :
    let b := (ps.readied.openReceiving x).accept x
    b.tx.frames = ps.tx.joined (rspFrame x.request 0x00 x.acceptDetail) ∧ SameNotices ps.notice b.notice ∧
      b.notice.paused = false ∧ (ps.session = .notifying → b.notice.tNtc = none ∧ b.tx.slot = none) ∧
      b = { ps with tx := b.tx, session := .receiving, transfer := some x, buffer := [], tSeg := some x.wait
                    notice := b.notice } := by
  have ready := PortState.readied_eq h.1
  have stopped := PortState.readied_notifying (ps := ps)
  generalize ps.readied = r at ready stopped ⊢
  obtain ⟨frames, rest⟩ := PortState.accept_openReceiving r hc
  have slot (hs : r.tx.slot = none) : ((r.openReceiving x).accept x).tx.slot = none :=
    PortState.slot_form (ps := r.openReceiving x) _ hs
  intro b
  change b.tx.frames = _ at frames
  change b = { r.openReceiving x with tx := b.tx } at rest
  change r.tx.slot = none → b.tx.slot = none at slot
  clear_value b
  have notice : b.notice = r.notice := by
    rw [rest]
    rfl
  refine ⟨?_, ?_, ?_, fun hs => ⟨?_, slot (stopped hs).2⟩, ?_⟩
  · rw [frames, ready]
    rfl
  · rw [notice, ready]
    exact ⟨rfl, rfl, rfl⟩
  · rw [notice, ready]
  · rw [notice]
    exact (stopped hs).1
  · rw [notice, rest, ready]
    rfl

/-- A WRITE or MWRITE that passes the checks opens RECEIVING at its readied port, and is answered ACCEPT (R89). -/
theorem exec_transfer_receiving {op : TransferOp} {p : Port} {tag flags : Byte} {area : Area} {first count : Word}
    {s : State} (hop : op ≠ .read) (h : Performs s p (op.request tag area.code flags first count))
    (passes : transferRefusal s.holds p op area first.toNat count.toNat = none) :
    let t := newTransfer s.image (op.request tag area.code flags first count) op area (editFlag flags) first.toNat
      count.toNat
    exec (op.row p tag area.code flags first count) s =
      .next (s.modPort p fun ps => (ps.readied.openReceiving t).accept t) := by
  intro t
  have performed := performTransfer_accepted (s := s.modPort p PortState.readied) (p := p)
    (request := op.request tag area.code flags first count) (flags := flags) passes
  simp only [if_neg hop, image_modPort, acceptWrite_eq, modPort_modPort] at performed
  refine exec_transfer h performed (PortState.free_of_session ?_)
  rw [port_modPort_same, (PortState.accept_openReceiving _ rfl).2]
  nofun

/-- A READ that passes the checks opens SENDING at its readied port, and hands its snapshot claim over (R18, R90). -/
theorem exec_transfer_sending {p : Port} {tag flags : Byte} {area : Area} {first count : Word} {s : State}
    (h : Performs s p ((Request.read area.code flags first count).payload tag))
    (passes : transferRefusal s.holds p .read area first.toNat count.toNat = none) :
    let t := newTransfer s.image ((Request.read area.code flags first count).payload tag) .read area (editFlag flags)
      first.toNat count.toNat
    exec (.read p tag area.code flags first count) s =
      .next ((s.modPort p fun ps => ps.readied.openSending t).handOver
        [.snapshot p area (editFlag flags) first.toNat count.toNat]) := by
  intro t
  have performed := performTransfer_accepted (s := s.modPort p PortState.readied) (p := p)
    (request := (Request.read area.code flags first count).payload tag) (flags := flags) passes
  simp only [if_true, image_modPort, acceptRead_eq, modPort_modPort] at performed
  refine exec_transfer (op := .read) h performed (PortState.free_of_session ?_)
  rw [port_handOver, port_modPort_same]
  nofun

/-- Settles O26: the checks pass; a WRITE or MWRITE is answered ACCEPT, a READ hands its snapshot claim over. -/
theorem transferIsAccepted : Obligations.TransferIsAccepted := by
  refine ⟨fun op p tag flags area first count s hop h ha hcount hinside hlimit hfree => ?_,
    fun p tag flags area first count s h hcount hinside hlimit => ?_⟩
  · have fits : TransferFits op area first.toNat count.toNat := by
      refine ⟨hcount, hinside, ?_⟩
      cases op with
      | read => exact absurd rfl hop
      | write => exact hlimit
      | mwrite => exact hlimit
    have passes : transferRefusal s.holds p op area first.toNat count.toNat = none := by
      rw [transferRefusal_inside ((area.admits_iff op).mpr (.inr ha)) fits, if_neg hop,
        (blocking_eq_none hcount).mpr hfree]
      rfl
    have record := newTransfer_write (im := s.image) (request := op.request tag area.code flags first count)
      (edit := editFlag flags) (first := first.toNat) (count := count.toNat) hop
      (show area = .prm → op = .write by rintro rfl; simpa using ha)
    refine ⟨_, exec_transfer_receiving hop h passes, onlyPort_modPort .., ?_⟩
    rw [port_modPort_same]
    generalize newTransfer _ _ _ _ _ _ _ = x at record ⊢
    obtain ⟨frames, notices, paused, stopped, rest⟩ := PortState.accept_readied (x := x) h.2.1 (by rw [record])
    generalize ((s.port p).readied.openReceiving x).accept x = b at frames notices paused stopped rest ⊢
    have fields : b.session = .receiving ∧ b.transfer = some x ∧ b.buffer = [] ∧ b.tSeg = some x.wait := by
      rw [rest]
      exact ⟨rfl, rfl, rfl, rfl⟩
    obtain ⟨session, transfer, buffer, tSeg⟩ := fields
    refine ⟨session, transfer.trans (congrArg some record), buffer, tSeg.trans (by rw [record]), ?_, notices, paused,
      stopped, ?_⟩
    · rw [frames, record]
      rfl
    · rw [transfer, tSeg]
      exact rest
  · have passes : transferRefusal s.holds p .read area first.toNat count.toNat = none := by
      rw [transferRefusal_inside ((area.admits_iff .read).mpr (.inl rfl)) ⟨hcount, hinside, hlimit⟩, if_pos rfl]
    have ready := PortState.readied_eq h.2.1.1
    refine ⟨_, exec_transfer_sending h passes, by rw [State.handOver_eq]; rfl, fun q hq => ?_, claims_handOver .., ?_⟩
    · rw [port_handOver, port_modPort_other _ _ _ _ hq]
    · rw [port_handOver, port_modPort_same]
      refine ⟨rfl, rfl, ?_, ?_, ?_, PortState.readied_notifying, ?_⟩
      · rw [ready]
        rfl
      · rw [ready]
        exact ⟨rfl, rfl, rfl⟩
      · rw [ready]
        rfl
      · rw [ready]
        rfl

end Sys2Proof.Machine
end

section
/-! PROOFS. An open transfer: the segments of a WRITE or MWRITE (R91 to R94, R101), those of a READ (R97 to R100), and
its end by ABT, by T_seg or by too many retries (R94 to R96, R99). -/

namespace Sys2Proof.Machine

/-! ### A DAT in RECEIVING -/

/-- An ACK or NAK names its segment by the byte that a frame named it by (R75). -/
theorem answerFrame_toNat (kind : PartKind) (tag seq : Byte) :
    answerFrame kind tag seq.toNat = { kind := kind, payload := [tag, seq], origin := .reply } := by
  rw [answerFrame, BitVec.ofNat_toNat, BitVec.setWidth_eq]

/-- A DAT with the open tag in RECEIVING is taken as a segment (R91). -/
theorem takeFrame_dat_open {s : State} {p : Port} {x : Transfer} (h : Open s p .receiving x) (seq : Byte)
    (data : List Byte) :
    (s.modPort p PortState.resumed).takeFrame p .dat (x.tag :: seq :: data) =
      (s.modPort p PortState.resumed).receiveSegment p x seq data := by
  obtain ⟨-, hs, ht, hc, -⟩ := h
  have session : (s.port p).resumed.session = .receiving := hs
  have transfer : (s.port p).resumed.transfer = some x := ht
  rw [State.takeFrame, State.takeDat, port_modPort_same]
  simp only [session, transfer]
  exact if_pos ⟨hc, trivial⟩

/-- The port once an expected segment is stored: the words join the buffer, T_seg is restarted (R91, R92). -/
def PortState.storing (ps : PortState) (t : Transfer) (seq : Nat) (data : List Byte) : PortState :=
  { ps with
    tSeg := some t.wait, buffer := ps.buffer ++ wordsOf data, transfer := some { t with retry := 0, seq := seq } }

section
variable {s : State} {p : Port} {t : Transfer} {seq : Byte} {data : List Byte}

/-- The expected segment, before the last (R92). -/
theorem receiveSegment_next (hseq : seq.toNat = t.seq) (hlen : 2 + data.length = expectedLen t.op t.count t.seq)
    (hl : t.seq + 1 < t.segments) :
    s.receiveSegment p t seq data =
      s.modPort p fun ps => (ps.storing t (t.seq + 1) data).form (answerFrame .ack t.tag seq.toNat) := by
  rw [State.receiveSegment, if_pos ⟨hseq, hlen⟩, State.storeSegment, if_pos hl, modPort_modPort, hseq]
  rfl

/-- The expected segment, the last: the commit claim is handed over (R101). -/
theorem receiveSegment_last (hseq : seq.toNat = t.seq) (hlen : 2 + data.length = expectedLen t.op t.count t.seq)
    (hl : t.segments ≤ t.seq + 1) :
    s.receiveSegment p t seq data =
      (s.modPort p fun ps => { ps.storing t t.seq data with session := .committing, tSeg := none }).handOver
        [.commit p t.writeOp (t.region s.image.edit) t.first t.count] := by
  rw [State.receiveSegment, if_pos ⟨hseq, hlen⟩, State.storeSegment, if_neg (Nat.not_lt.mpr hl), State.handCommit,
    modPort_modPort, modPort_modPort]
  rfl

/-- The segment stored last, once more (R93). -/
theorem receiveSegment_again (h : seq.toNat + 1 = t.seq) :
    s.receiveSegment p t seq data =
      s.modPort p fun ps => { ps with tSeg := some t.wait }.form (answerFrame .ack t.tag seq.toNat) := by
  rw [State.receiveSegment, if_neg (by omega), if_pos h, modPort_modPort]

/-- Any other segment (R94). -/
theorem receiveSegment_fault (he : ¬(seq.toNat = t.seq ∧ 2 + data.length = expectedLen t.op t.count t.seq))
    (h : seq.toNat + 1 ≠ t.seq) :
    s.receiveSegment p t seq data =
      s.modPort p fun ps => { ps with tSeg := some t.wait }.segmentFault t := by
  rw [State.receiveSegment, if_neg he, if_neg h, modPort_modPort]

end

/-- The region that a commit claim names (R8, R46). -/
theorem Transfer.region_of_commitRegion {t : Transfer} {r : Region} (h : t.commitRegion = some r) (edit : Bank) :
    t.region edit = r := by
  unfold Transfer.commitRegion at h
  unfold Transfer.region
  split at h
  · next ha => cases h; rw [ha]
  · next ha => cases h; rw [ha]
  · next b ha hb => cases h; rw [ha, hb]; rfl
  · cases h

/-- Settles O28: a segment before the last, then the last. -/
theorem datStoresTheSegment : Obligations.DatStoresTheSegment := by
  intro p s x seq data h hseq hlen
  have taken := takeFrame_dat_open h seq data
  obtain ⟨hl, hs, -, -, hq⟩ := h
  refine ⟨fun hnext => ?_, fun hlast region hregion => ?_⟩
  · rw [receiveSegment_next hseq hlen hnext] at taken
    have session : ((s.port p).resumed.storing x (x.seq + 1) data).session = .receiving := hs
    have formed := PortState.form_of_noFin (ps := (s.port p).resumed.storing x (x.seq + 1) data)
      (answerFrame .ack x.tag seq.toNat) (by rw [session]; nofun) hq
    refine ⟨_, exec_frame_port rfl hl taken (PortState.free_of_session ?_), onlyPort_modPort .., ?_⟩
    · rw [formed, session]
      nofun
    · rw [port_modPort_same]
      refine ⟨?_, formed⟩
      rw [PortState.frames_form, answerFrame_toNat]
      rfl
  · rw [receiveSegment_last hseq hlen (Nat.le_of_eq hlast.symm), x.region_of_commitRegion hregion,
      modPort_modPort] at taken
    refine ⟨_, exec_frame_notFree rfl hl taken (PortState.free_of_session ?_), by rw [State.handOver_eq]; rfl,
      fun q hq => ?_, claims_handOver .., ?_⟩
    · rw [port_handOver, port_modPort_same]
      nofun
    · rw [port_handOver, port_modPort_other _ _ _ _ hq]
    · rw [port_handOver, port_modPort_same]
      rfl

/-! ### A retry of a transfer -/

/-- A transfer one retry further. -/
def Transfer.retried (t : Transfer) : Transfer := { t with retry := t.retry + 1 }

/-- The port that counts a retry (R94, R99). -/
def PortState.retrying (ps : PortState) (t : Transfer) : PortState :=
  { ps with transfer := some t.retried, counters := ps.counters.retry }

theorem PortState.segmentFault_eq (ps : PortState) (t : Transfer) :
    ps.segmentFault t =
      if t.retry + 1 ≤ t.retryLimit then (ps.retrying t).form (answerFrame .nak t.tag t.seq)
      else (ps.retrying t).finish t.retried .retries 0 0 := rfl

theorem PortState.retrySegment_eq (ps : PortState) (t : Transfer) :
    ps.retrySegment t =
      if t.retry + 1 ≤ t.retryLimit then { ps.retrying t with tAck := none }.form (datFrame t.retried ps.buffer t.seq)
      else { ps.retrying t with tAck := none }.finish t.retried .retries 0 0 := rfl

/-- Within the captured limit the frame asked for is formed, and past it FIN RETRIES (R94, R99). -/
theorem PortState.retry_effect {a b : PortState} {t : Transfer} {f : TxFrame}
    (hf : a.form f = { a with tx := (a.form f).tx }) (hq : a.tx.noFin)
    (hb : b = if t.retry + 1 ≤ t.retryLimit then a.form f else a.finish t.retried .retries 0 0) :
    (b.session = a.session ∧ b.counters = a.counters) ∧
      (t.retry + 1 ≤ t.retryLimit → b.tx.frames = a.tx.joined f ∧ b = { a with tx := b.tx }) ∧
      (t.retryLimit < t.retry + 1 →
        b.tx.frames = a.tx.joined (finFrame t.tag 4 0 0) ∧
          b = { a with tx := b.tx, tSeg := none, tAck := none
                       transfer := some { t.retried with closing := true } }) := by
  by_cases within : t.retry + 1 ≤ t.retryLimit
  · rw [if_pos within] at hb
    rw [hb]
    refine ⟨?_, fun _ => ⟨PortState.frames_form _ _, hf⟩, fun past => absurd within (Nat.not_le.mpr past)⟩
    rw [hf]
    exact ⟨rfl, rfl⟩
  · rw [if_neg within] at hb
    rw [hb]
    obtain ⟨frames, rest⟩ := PortState.finish_noFin (ps := a) t.retried .retries 0 0 hq
    refine ⟨?_, fun h => absurd h within, fun _ => ⟨frames, rest⟩⟩
    rw [rest]
    exact ⟨rfl, rfl⟩

/-- Settles O29: the segment stored last, then a fault. -/
theorem datOutOfSequence : Obligations.DatOutOfSequence := by
  intro p s x seq data h
  have taken := takeFrame_dat_open h seq data
  obtain ⟨hl, hs, -, -, hq⟩ := h
  let timed : PortState := { (s.port p).resumed with tSeg := some x.wait }
  have receiving : timed.session = .receiving := hs
  have formed (f : TxFrame) (ps : PortState) (hps : ps.session = .receiving) (htx : ps.tx = (s.port p).tx) :
      ps.form f = { ps with tx := (ps.form f).tx } :=
    PortState.form_of_noFin f (by rw [hps]; nofun) (by rw [htx]; exact hq)
  refine ⟨fun hagain => ?_, fun hother hnot => ?_⟩
  · rw [receiveSegment_again hagain] at taken
    have acknowledged := formed (answerFrame .ack x.tag seq.toNat) timed receiving rfl
    refine ⟨_, exec_frame_port rfl hl taken (PortState.free_of_session ?_), onlyPort_modPort .., ?_⟩
    · show (timed.form _).session ≠ _
      rw [acknowledged, receiving]
      nofun
    · rw [port_modPort_same]
      refine ⟨?_, acknowledged⟩
      rw [PortState.frames_form, answerFrame_toNat]
      rfl
  · rw [receiveSegment_fault hother hnot] at taken
    obtain ⟨⟨session, counters⟩, within, past⟩ := PortState.retry_effect
      (formed (answerFrame .nak x.tag x.seq) (timed.retrying x) receiving rfl) hq (timed.segmentFault_eq x)
    refine ⟨_, exec_frame_port rfl hl taken (PortState.free_of_session ?_), onlyPort_modPort .., ?_⟩
    · show (timed.segmentFault x).session ≠ _
      rw [session, show (timed.retrying x).session = .receiving from receiving]
      nofun
    · rw [port_modPort_same]
      show (timed.segmentFault x).counters = _ ∧ (timed.segmentFault x).counters.retries.toNat = _ ∧ _
      rw [counters]
      refine ⟨rfl, toNat_satInc_word _, fun hle => ?_, fun hlt => ?_⟩
      · obtain ⟨frames, rest⟩ := within hle
        exact ⟨frames, rest⟩
      · obtain ⟨frames, rest⟩ := past hlt
        exact ⟨frames, rest⟩

/-! ### ACK and NAK in SENDING -/

/-- A frame of the open tag and the current seq, once the snapshot has been taken (R98, R99). -/
theorem PortState.answeredSegment_current {ps : PortState} {t : Transfer} {seq : Byte} (hs : ps.session = .sending)
    (ht : ps.transfer = some t) (hc : t.closing = false) (hg : t.snapGen.isSome = true) (hseq : seq.toNat = t.seq) :
    ps.answeredSegment [t.tag, seq] = some t := by
  simp only [PortState.answeredSegment, hs, ht]
  exact if_pos ⟨hc, hg, trivial, hseq⟩

section
variable {ps : PortState} {t : Transfer} {payload : List Byte}

/-- An ACK before the last segment (R98). -/
theorem PortState.takeAck_next (ha : ps.answeredSegment payload = some t) (hl : t.seq + 1 < t.segments) :
    ps.takeAck payload =
      { ps with transfer := some { t with retry := 0, seq := t.seq + 1 }, tAck := none }.form
        (datFrame { t with retry := 0, seq := t.seq + 1 } ps.buffer (t.seq + 1)) := by
  rw [PortState.takeAck, ha]
  exact if_pos hl

/-- An ACK of the last segment (R98). -/
theorem PortState.takeAck_last (ha : ps.answeredSegment payload = some t) (hl : t.segments ≤ t.seq + 1) :
    ps.takeAck payload = { ps with tAck := none }.finish { t with retry := 0 } .ok (t.snapGen.getD 0) 0 := by
  rw [PortState.takeAck, ha]
  exact if_neg (Nat.not_lt.mpr hl)

theorem PortState.takeNak_current (ha : ps.answeredSegment payload = some t) :
    ps.takeNak payload = ps.retrySegment t := by
  rw [PortState.takeNak, ha]

end

/-- A DAT of a read with its whole range in the slots carries the words of its segment (R97). -/
theorem datFrame_eq_readFrame (t : Transfer) {buffer : List Word} (n : Nat) (h : buffer.length = t.count) :
    datFrame t buffer n = readFrame t.tag n buffer := by
  have words : segmentWords t buffer n = (buffer.drop (32 * n)).take 32 := by
    apply List.ext_getElem
    · simp [segmentWords, segmentUnits, TransferOp.segmentSize, h]
    · intro i h1 h2
      have inside : 32 * n + i < buffer.length := by simp at h2; omega
      simp [segmentWords, slotWord, inside]
  rw [datFrame, words]
  rfl

/-- Settles O30: the DAT of the next segment, then FIN OK after the last. -/
theorem ackSendsTheNextSegment : Obligations.AckSendsTheNextSegment := by
  intro p s x seq gen h hgen hseq hbuffer
  obtain ⟨hl, hs, ht, hc, hq⟩ := h
  have current : (s.port p).resumed.answeredSegment [x.tag, seq] = some x :=
    PortState.answeredSegment_current hs ht hc (by rw [hgen]; rfl) hseq
  have acknowledged (session : ((s.port p).resumed.takeAck [x.tag, seq]).session = .sending) :
      exec (.ack p [x.tag, seq]) s = .next (s.modPort p fun ps => ps.resumed.takeAck [x.tag, seq]) :=
    exec_frame_port (f := fun ps => ps.takeAck [x.tag, seq]) rfl hl rfl
      (PortState.free_of_session (by rw [session]; nofun))
  refine ⟨fun hnext _ room => ?_, fun hlast => ?_⟩
  · let a : PortState :=
      { (s.port p).resumed with transfer := some { x with retry := 0, seq := x.seq + 1 }, tAck := none }
    have formed : (s.port p).resumed.takeAck [x.tag, seq] = a.form (readFrame x.tag (x.seq + 1) (s.port p).buffer) := by
      rw [← datFrame_eq_readFrame x (x.seq + 1) hbuffer]
      exact PortState.takeAck_next current hnext
    have effect : a.form (readFrame x.tag (x.seq + 1) (s.port p).buffer) = _ :=
      (PortState.form_room_effect (ps := a) _ room).2.2
    refine ⟨_, acknowledged ?_, onlyPort_modPort .., ?_⟩
    · rw [formed, effect]
      exact hs
    · rw [port_modPort_same, formed]
      exact ⟨PortState.frames_form _ _, effect⟩
  · let a : PortState := { (s.port p).resumed with tAck := none }
    have finished : (s.port p).resumed.takeAck [x.tag, seq] = a.finish { x with retry := 0 } .ok gen 0 := by
      rw [PortState.takeAck_last current hlast, hgen]
      rfl
    obtain ⟨frames, rest⟩ := PortState.finish_noFin (ps := a) { x with retry := 0 } .ok gen 0 hq
    refine ⟨_, acknowledged ?_, onlyPort_modPort .., ?_⟩
    · rw [finished, rest]
      exact hs
    · rw [port_modPort_same, finished]
      exact ⟨frames, rest⟩

/-- T_ACK_EXPIRY with nothing left of T_ack counts a timeout and a retry (R100). -/
theorem exec_tAckExpiry {p : Port} {s : State} {t : Transfer} (hlow : s.resetLow = false)
    (hs : (s.port p).session = .sending) (ht : (s.port p).transfer = some t) (hw : (s.port p).tAck = some 0) :
    exec (.tAckExpiry p) s = .next (s.modPort p fun ps => (ps.count Counters.timeout).retrySegment t) := by
  have due : (s.port p).ackDue = some t := by simp [PortState.ackDue, hs, ht, hw]
  rw [exec, execTAckExpiry, State.whenReleased_high hlow]
  refine congrArg _ (modPort_congr ?_)
  rw [due]

/-- Settles O31: the NAK and the expiry retry the segment at the port as each meets it. -/
theorem readSegmentIsSentAgain : Obligations.ReadSegmentIsSentAgain := by
  intro p s x seq gen byNak h _ hgen hseq hbuffer room hexpired ns
  obtain ⟨hl, hs, ht, hc, hq⟩ := h
  have hg : x.snapGen.isSome = true := by rw [hgen]; rfl
  let met : PortState :=
    { s.port p with
      notice := ns
      counters := if byNak then (s.port p).counters else (s.port p).counters.timeout }
  let a : PortState := { met.retrying x with tAck := none }
  have dat : datFrame x.retried met.buffer x.seq = readFrame x.tag x.seq (s.port p).buffer :=
    datFrame_eq_readFrame _ _ hbuffer
  have formed : a.form (datFrame x.retried met.buffer x.seq) = _ := (PortState.form_room_effect (ps := a) _ room).2.2
  obtain ⟨⟨session, counters⟩, within, past⟩ := PortState.retry_effect formed hq (met.retrySegment_eq x)
  have run : exec (if byNak then .nak p [x.tag, seq] else .tAckExpiry p) s =
      .next (s.modPort p fun _ => met.retrySegment x) := by
    cases byNak with
    | true =>
      have current : (s.port p).resumed.takeNak [x.tag, seq] = met.retrySegment x :=
        PortState.takeNak_current (PortState.answeredSegment_current hs ht hc hg hseq)
      have notFree : ((s.port p).resumed.takeNak [x.tag, seq]).free = false := by
        rw [current]
        refine PortState.free_of_session ?_
        rw [session]
        show (s.port p).session ≠ _
        rw [hs]
        nofun
      exact (exec_frame_port (f := fun ps => ps.takeNak [x.tag, seq]) rfl hl rfl notFree).trans
        (congrArg _ (modPort_congr current))
    | false => exact (exec_tAckExpiry hl.1 hs ht (hexpired rfl)).trans (congrArg _ (modPort_congr rfl))
  refine ⟨_, run, onlyPort_modPort .., ?_⟩
  rw [port_modPort_same, counters]
  refine ⟨?_, ?_, ?_, fun hle => ?_, fun hlt => ?_⟩
  · cases byNak <;> rfl
  · cases byNak <;> exact toNat_satInc_word _
  · cases byNak with
    | true => rfl
    | false => exact toNat_satInc_word _
  · obtain ⟨frames, rest⟩ := within hle
    rw [dat] at frames
    exact ⟨frames, rest⟩
  · obtain ⟨frames, rest⟩ := past hlt
    exact ⟨frames, rest⟩

/-! ### The end of a transfer without a commit -/

/-- An ABT with the open tag, where one is taken (R96). -/
theorem PortState.takeAbt_open {ps : PortState} {t : Transfer} (ht : ps.transfer = some t) (hc : t.closing = false)
    (hs : ps.session = .receiving ∨ ps.session = .sending ∧ t.snapGen.isSome = true) :
    ps.takeAbt [t.tag] = ps.finish t .aborted 0 0 := by
  simp only [PortState.takeAbt, ht]
  exact if_pos ⟨hc, trivial, hs⟩

/-- T_SEG_EXPIRY with nothing left of T_seg counts a timeout and ends the transfer (R91, R95). -/
theorem exec_tSegExpiry {p : Port} {s : State} {t : Transfer} (hlow : s.resetLow = false)
    (hs : (s.port p).session = .receiving) (ht : (s.port p).transfer = some t) (hw : (s.port p).tSeg = some 0) :
    exec (.tSegExpiry p) s =
      .next (s.modPort p fun ps => (ps.count Counters.timeout).finish t .timeout 0 0) := by
  have due : (s.port p).segDue = some t := by simp [PortState.segDue, hs, ht, hw]
  rw [exec, execTSegExpiry, State.whenReleased_high hlow]
  refine congrArg _ (modPort_congr ?_)
  rw [due]

/-- Settles O32: the FIN of an ABT, then that of T_SEG_EXPIRY; both change their port alone. -/
theorem transferEndsWithoutACommit : Obligations.TransferEndsWithoutACommit := by
  refine ⟨fun p s x h => ?_, fun p s x h hw => ?_⟩
  · have met : Listens s p ∧
        ((s.port p).session = .receiving ∨ (s.port p).session = .sending ∧ x.snapGen.isSome = true) ∧
        (s.port p).transfer = some x ∧ x.closing = false ∧ (s.port p).tx.noFin := by
      rcases h with ⟨hl, hs, rest⟩ | ⟨⟨hl, hs, rest⟩, hg⟩
      · exact ⟨hl, .inl hs, rest⟩
      · exact ⟨hl, .inr ⟨hs, hg⟩, rest⟩
    obtain ⟨hl, hs, ht, hc, hq⟩ := met
    have aborted : (s.port p).resumed.takeAbt [x.tag] = _ := PortState.takeAbt_open ht hc hs
    obtain ⟨frames, rest⟩ := PortState.finish_noFin (ps := (s.port p).resumed) x .aborted 0 0 hq
    have session : ((s.port p).resumed.finish x .aborted 0 0).session = (s.port p).session := by
      rw [rest]
      rfl
    refine ⟨_, exec_frame_port (f := fun ps => ps.takeAbt [x.tag]) rfl hl rfl (PortState.free_of_session ?_),
      onlyPort_modPort .., ?_⟩
    · rw [aborted, session]
      rcases hs with hs | ⟨hs, -⟩ <;> simp [hs]
    · rw [port_modPort_same, aborted]
      exact ⟨frames, rest⟩
  · obtain ⟨hl, hs, ht, hc, hq⟩ := h
    obtain ⟨frames, rest⟩ := PortState.finish_noFin (ps := (s.port p).count Counters.timeout) x .timeout 0 0 hq
    have counters : (((s.port p).count Counters.timeout).finish x .timeout 0 0).counters =
        (s.port p).counters.timeout := by
      rw [rest]
      rfl
    refine ⟨_, exec_tSegExpiry hl.1 hs ht hw, onlyPort_modPort .., ?_⟩
    rw [port_modPort_same, counters]
    refine ⟨frames, rfl, toNat_satInc_word _, ?_⟩
    exact rest

end Sys2Proof.Machine
end

section
/-! PROOFS. A frame that its port does not admit (R79, R96, R98, R99, R101, R103, R106, R124): it clears the paused flag,
and delivery judges after it (R127). -/

namespace Sys2Proof.Machine

/-! ### The dropping of a frame -/

/-- A port whose paused flag is cleared, and which judges delivery, has dropped its frame (R127). -/
theorem PortState.drops_resumed (ps : PortState) (enabled : Bool) (hh : ps.held = false) :
    Drops enabled ps (ps.resumed.deliver enabled) := by
  have told := PortState.sameNotices_deliver ps.resumed enabled
  obtain ⟨paused, tNtc⟩ := PortState.timing_deliver ps.resumed enabled
  refine ⟨PortState.deliver_eq _ _, told, paused, tNtc, PortState.frames_deliver _ _, fun silent => ?_,
    fun hon hfree hq => ?_⟩
  · rcases silent with hoff | hbusy | hq
    · exact PortState.deliver_nothing _ _ (.inl hoff)
    · exact PortState.deliver_notFree _ _ hbusy
    · exact PortState.deliver_nothing _ _ (.inr hq)
  · subst hon
    have free : ps.session = .idle ∧ ps.bankRequest = none := by
      simp only [PortState.free, Bool.and_eq_true, decide_eq_true_eq, Option.isNone_iff_eq_none] at hfree
      exact hfree.1
    have ready : ps.resumed.readyToSend = true :=
      (PortState.readyToSend_iff _).mpr ⟨free.1, free.2, hh, rfl, hq⟩
    obtain ⟨e, rest, hq'⟩ := List.exists_cons_of_ne_nil hq
    exact (PortState.deliver_sends ready (show ps.resumed.notice.queue = e :: rest from hq')).1

/-- A frame that nothing is made of is dropped. -/
theorem exec_frame_dropped {i : Instr} {p : Port} {kind : MasterKind} {payload : List Byte} {s : State}
    (hi : frameOf i = some (p, kind, payload)) (h : Listens s p)
    (hr : (s.modPort p PortState.resumed).takeFrame p kind payload = s.modPort p PortState.resumed) :
    ∃ t, exec i s = .next t ∧ OnlyPort s t p ∧ Drops (s.enabled p) (s.port p) (t.port p) := by
  have same : (s.modPort p PortState.resumed).takeFrame p kind payload =
      (s.modPort p PortState.resumed).modPort p fun ps => ps := hr.trans (modPort_stays rfl).symm
  refine ⟨_, (exec_frame hi h).trans (congrArg _ (arrive_port same)), onlyPort_modPort .., ?_⟩
  rw [port_modPort_same]
  exact PortState.drops_resumed _ _ (PortState.held_of_ne_brk h.2)

/-! ### DAT -/

/-- The recorded request whose last segment a DAT may name is a WRITE or MWRITE that closed with a FIN (R106). -/
theorem Exchange.request_of_lastSeq {y : Exchange} {n : Nat} (h : y.lastSeq = some n) :
    y.replyKind = .fin ∧ ∃ (op : TransferOp) (tag area flags : Byte) (first count : Word), op ≠ .read ∧
      y.request = op.request tag area flags first count ∧ n = segmentCount op count.toNat - 1 := by
  unfold Exchange.lastSeq at h
  split at h
  · cases h
  · next hk =>
    refine ⟨Decidable.not_not.mp hk, ?_⟩
    have read {r : Request} (hr : requestOfPayload y.request = some r) : ∃ tag, y.request = r.payload tag := by
      unfold requestOfPayload at hr
      split at hr
      · next tag op fields hy =>
        obtain ⟨rfl, rfl⟩ := requestOf_eq_some hr
        exact ⟨tag, hy⟩
      · cases hr
    split at h
    · next area flags first count hr =>
      obtain ⟨tag, hy⟩ := read hr
      exact ⟨.write, tag, area, flags, first, count, nofun, hy, (Option.some.inj h).symm⟩
    · next area flags first count hr =>
      obtain ⟨tag, hy⟩ := read hr
      exact ⟨.mwrite, tag, area, flags, first, count, nofun, hy, (Option.some.inj h).symm⟩
    · cases h

/-- A DAT at rest is dropped but where it is the last segment that the record names (R106). -/
theorem PortState.repeatedDat_other {ps : PortState} {tag seq : Byte}
    (h : ∀ y ∈ ps.record, tagOf y.request = tag → y.lastSeq ≠ some seq.toNat) : ps.repeatedDat tag seq = ps := by
  unfold PortState.repeatedDat
  split
  · next y hy => exact if_neg fun c => h y hy c.1.symm c.2
  · rfl

/-- A DAT too short for its tag and seq. -/
theorem takeDat_short {s : State} {p : Port} {payload : List Byte} (h : payload.length < 2) :
    s.takeDat p payload = s := by
  match payload, h with
  | [], _ => rfl
  | [_], _ => rfl

/-- A DAT of another tag, or while closing, in RECEIVING (R79, R103). -/
theorem takeDat_receiving_other {s : State} {p : Port} {payload : List Byte} (hs : (s.port p).session = .receiving)
    (h : ∀ x ∈ (s.port p).transfer, x.closing = true ∨ x.tag ≠ tagOf payload) : s.takeDat p payload = s := by
  unfold State.takeDat
  split
  · next tag seq data =>
    cases ht : (s.port p).transfer with
    | none => simp only [hs, ht]
    | some x =>
      simp only [hs, ht]
      refine if_neg fun ⟨hc, htag⟩ => ?_
      rcases h x ht with closing | other
      · rw [hc] at closing
        cases closing
      · exact other htag.symm
  · rfl

/-- A DAT in SENDING or COMMITTING (R101). -/
theorem takeDat_sending {s : State} {p : Port} (payload : List Byte)
    (hs : (s.port p).session = .sending ∨ (s.port p).session = .committing) : s.takeDat p payload = s := by
  unfold State.takeDat
  split
  · rcases hs with hs | hs <;> simp only [hs]
  · rfl

/-! ### ACK, NAK, ABT and NTA -/

/-- A frame that answers no segment: out of SENDING, before the snapshot, while closing, of another tag or seq (R98,
R99). -/
theorem PortState.answeredSegment_none {ps : PortState} {payload : List Byte}
    (h : ps.session ≠ .sending ∨ ∀ x ∈ ps.transfer,
      x.closing = true ∨ x.snapGen = none ∨ payload ≠ [x.tag, BitVec.ofNat 8 x.seq]) :
    ps.answeredSegment payload = none := by
  unfold PortState.answeredSegment
  split
  · next tag seq x hs ht =>
    refine if_neg fun ⟨hc, hg, htag, hseq⟩ => ?_
    rcases h.resolve_left (not_not.mpr hs) x ht with closing | early | other
    · rw [hc] at closing
      cases closing
    · rw [early] at hg
      cases hg
    · rw [htag, ← hseq, BitVec.ofNat_toNat, BitVec.setWidth_eq] at other
      exact other rfl
  · rfl

/-- An ABT of another tag, or where none is taken (R96). -/
theorem PortState.takeAbt_other {ps : PortState} {payload : List Byte}
    (h : ∀ x ∈ ps.transfer, x.closing = true ∨ payload ≠ [x.tag] ∨
      ¬(ps.session = .receiving ∨ ps.session = .sending ∧ x.snapGen.isSome = true)) : ps.takeAbt payload = ps := by
  unfold PortState.takeAbt
  split
  · next tag x ht =>
    refine if_neg fun ⟨hc, htag, hs⟩ => ?_
    rcases h x ht with closing | other | place
    · rw [hc] at closing
      cases closing
    · exact other (by rw [htag])
    · exact place hs
  · rfl

/-- An NTA that is not of the outstanding seq (R124). -/
theorem PortState.takeNta_other {ps : PortState} {payload : List Byte}
    (h : ∀ e info, ps.notice.queue.head? = some e → e.sent = some info → payload ≠ [info.seq]) :
    ps.takeNta payload = ps := by
  unfold PortState.takeNta
  split
  · next seq e ho =>
    have head : ps.notice.queue.head? = some e := by
      unfold NoticeState.outstanding at ho
      split at ho
      · next e' rest hq =>
        split at ho
        · rw [hq, List.head?_cons]
          exact ho
        · cases ho
      · cases ho
    split
    · next info hsent => exact if_neg fun hseq => h e info head hsent (by rw [hseq])
    · rfl
  · rfl

/-- Settles O33: kind by kind, nothing is made of the frame; then the REQ of less than two bytes. -/
theorem framesOutOfPlaceAreDropped : Obligations.FramesOutOfPlaceAreDropped := by
  refine ⟨fun i p kind payload s hi h => ?_, fun p n high low got parityBit s h hmark hp hcheck hcrc hshort => ?_⟩
  · intro atRest out
    refine exec_frame_dropped hi h ?_
    let u : State := s.modPort p PortState.resumed
    have port : u.port p = (s.port p).resumed := port_modPort_same ..
    have alone (f : PortState → PortState) (hf : f (s.port p).resumed = (s.port p).resumed) : u.modPort p f = u :=
      modPort_stays (by rw [port]; exact hf)
    rcases out with ⟨rfl, dat⟩ | ⟨rfl | rfl, out⟩ | ⟨rfl, out⟩ | ⟨rfl, out⟩
    · rcases dat with short | hs | hs | ⟨hs, other⟩ | ⟨hs, other⟩
      · exact takeDat_short short
      · exact takeDat_sending (s := u) payload (.inl (by rw [port]; exact hs))
      · exact takeDat_sending (s := u) payload (.inr (by rw [port]; exact hs))
      · exact takeDat_receiving_other (s := u) (by rw [port]; exact hs) (by rw [port]; exact other)
      · match payload with
        | [] => rfl
        | [_] => rfl
        | tag :: seq :: data =>
          refine (takeDat_atRest (s := u) (by rw [port]; exact hs) tag seq data).trans (alone _ ?_)
          refine PortState.repeatedDat_other fun y hy htag hlast => ?_
          obtain ⟨hk, op, tag', area, flags, first, count, hop, hreq, hn⟩ := Exchange.request_of_lastSeq hlast
          rcases other y hy with k | k | k
          · exact k hk
          · exact k htag
          · exact k op tag' area flags first count hop hreq seq rfl hn
    · refine alone (fun ps => ps.takeAck payload) ?_
      rw [PortState.takeAck, PortState.answeredSegment_none (ps := (s.port p).resumed) out]
    · refine alone (fun ps => ps.takeNak payload) ?_
      rw [PortState.takeNak, PortState.answeredSegment_none (ps := (s.port p).resumed) out]
    · exact alone (fun ps => ps.takeAbt payload) (PortState.takeAbt_other (ps := (s.port p).resumed) out)
    · exact alone (fun ps => ps.takeNta payload) (PortState.takeNta_other (ps := (s.port p).resumed) out)
  · have judged : (s.port p).rx.assembly.take low = (.hunt, .valid .req got) := by
      rw [hcheck, Assembly.take, judgeFrame, if_neg (not_not.mpr hcrc)]
      rfl
    let u : State := s.modPort p fun ps => { ps with rx := ps.rx.complete .hunt }
    have port : u.port p = { s.port p with
        rx := { assembly := .hunt, gapTiming := false, inCharacter := false, awaitMark := false, line := .mark } } := by
      refine (port_modPort_same ..).trans ?_
      rw [Receiver.complete, hmark]
      rfl
    have dropped : (u.modPort p PortState.resumed).takeFrame p .req got =
        (u.modPort p PortState.resumed).modPort p fun ps => ps :=
      (show _ = u.modPort p PortState.resumed from if_pos hshort).trans (modPort_stays rfl).symm
    have arrived := (goodCharacter_valid judged).trans (arrive_port dropped)
    refine ⟨_, (exec_goodCharacter h hmark hp).trans (congrArg _ arrived), ?_, ?_⟩
    · rw [modPort_modPort]
      exact onlyPort_modPort ..
    · rw [port_modPort_same, port]
      exact PortState.drops_resumed _ _ rfl

end Sys2Proof.Machine
end

section
/-! PROOFS. The notice queue (R118, R119): its limits, and what placing, sending, acknowledging and unsubscribing keep of
them. -/

namespace Sys2Proof.Machine

/-! ### The limits of a queue -/

/-- A notice queue as R118 has it: at most 8 entries, none but the head sent, and at most one unsent CHANGE of each
subscription. -/
def QueueSound (queue : List Notice) : Prop :=
  queue.length ≤ 8 ∧ (∀ e ∈ queue.tail, e.sent = none) ∧
    queue.Pairwise fun a b =>
      ¬(a.kind = .change ∧ b.kind = .change ∧ a.sent = none ∧ b.sent = none ∧ a.refId = b.refId)

/-- What the limits of a queue look at in an entry. -/
def Notice.mark (e : Notice) : NoticeKind × Option SentInfo × Byte := (e.kind, e.sent, e.refId)

/-- The limits go with the marks alone. -/
theorem QueueSound.congr {q q' : List Notice} (h : QueueSound q) (hm : q'.map Notice.mark = q.map Notice.mark) :
    QueueSound q' := by
  have marks (l : List Notice) : QueueSound l ↔
      (l.map Notice.mark).length ≤ 8 ∧ (∀ x ∈ (l.map Notice.mark).tail, x.2.1 = none) ∧
        (l.map Notice.mark).Pairwise fun a b =>
          ¬(a.1 = .change ∧ b.1 = .change ∧ a.2.1 = none ∧ b.2.1 = none ∧ a.2.2 = b.2.2) := by
    simp [QueueSound, ← List.map_tail, List.pairwise_map, Notice.mark]
  rw [marks] at h ⊢
  rwa [hm]

/-- Entries that leave a queue leave it within its limits. -/
theorem QueueSound.sublist {q q' : List Notice} (h : QueueSound q) (hq : q'.Sublist q) : QueueSound q' := by
  obtain ⟨short, unsent, apart⟩ := h
  exact ⟨hq.length_le.trans short, fun e he => unsent e (hq.tail.subset he), apart.sublist hq⟩

/-- The head entry is sent (R121). -/
theorem QueueSound.send {e : Notice} {rest : List Notice} (info : SentInfo) (h : QueueSound (e :: rest)) :
    QueueSound ({ e with sent := some info } :: rest) := by
  obtain ⟨short, unsent, apart⟩ := h
  exact ⟨short, unsent, List.pairwise_cons.mpr ⟨by simp, (List.pairwise_cons.mp apart).2⟩⟩

/-- An item joins a queue that has room and no unsent CHANGE for it to merge into. -/
theorem QueueSound.append {q : List Notice} {item : Notice} (h : QueueSound q) (room : q.length < 8)
    (hsent : item.sent = none)
    (hnew : item.kind = .change → ∀ x ∈ q, ¬(x.kind = .change ∧ x.sent = none ∧ x.refId = item.refId)) :
    QueueSound (q ++ [item]) := by
  obtain ⟨-, unsent, apart⟩ := h
  refine ⟨by simpa using room, fun e he => ?_, List.pairwise_append.mpr ⟨apart, List.pairwise_singleton _ _, ?_⟩⟩
  · cases q with
    | nil => cases he
    | cons x q =>
      rcases List.mem_append.mp (show e ∈ q ++ [item] from he) with he | he
      · exact unsent e he
      · rwa [List.mem_singleton.mp he]
  · rintro x hx y hy ⟨hxk, hyk, hxs, -, hid⟩
    obtain rfl := List.mem_singleton.mp hy
    exact hnew hyk x hx ⟨hxk, hxs, hid⟩

/-! ### Items placed -/

theorem Notice.unsentChangeOf_iff {id : Byte} {e : Notice} :
    e.unsentChangeOf id = true ↔ e.kind = .change ∧ e.sent = none ∧ e.refId = id := by
  simp [Notice.unsentChangeOf, and_assoc]

/-- Merging changes no entry's mark. -/
theorem mark_mergeInto (item : Notice) (q : List Notice) :
    (mergeInto item q).map Notice.mark = q.map Notice.mark := by
  induction q with
  | nil => rfl
  | cons e q ih =>
    unfold mergeInto
    split
    · rfl
    · rw [List.map_cons, List.map_cons, ih]

/-- An item that cannot merge joins the queue or is lost (R119). -/
theorem NoticeState.place_unmerged {ns : NoticeState} {item : Notice}
    (h : item.kind ≠ .change ∨ ∀ x ∈ ns.queue, ¬(x.kind = .change ∧ x.sent = none ∧ x.refId = item.refId)) :
    ns.place item =
      if ns.queue.length < 8 then { ns with queue := ns.queue ++ [item] } else { ns with lost := satInc ns.lost } := by
  have unmerged : ¬(item.kind = .change && ns.queue.any (Notice.unsentChangeOf item.refId)) = true := by
    simp only [Bool.and_eq_true, decide_eq_true_eq, List.any_eq_true, Notice.unsentChangeOf_iff]
    rintro ⟨hk, x, hx, hu⟩
    exact h.elim (· hk) (· x hx hu)
  rw [NoticeState.place, if_neg unmerged]
  rfl

/-- An item that finds the unsent CHANGE of its subscription merges into it (R119). -/
theorem NoticeState.place_merged {ns : NoticeState} {item e : Notice} (hk : item.kind = .change) (he : e ∈ ns.queue)
    (hu : e.kind = .change ∧ e.sent = none ∧ e.refId = item.refId) :
    ns.place item = { ns with queue := mergeInto item ns.queue } := by
  have merges : (item.kind = .change && ns.queue.any (Notice.unsentChangeOf item.refId)) = true := by
    simp only [hk, decide_true, Bool.true_and, List.any_eq_true]
    exact ⟨e, he, Notice.unsentChangeOf_iff.mpr hu⟩
  rw [NoticeState.place, if_pos merges]

/-- The three ways of R119. -/
theorem NoticeState.place_cases (ns : NoticeState) (item : Notice) :
    ns.place item = { ns with queue := mergeInto item ns.queue } ∨
      (item.kind = .change → ∀ x ∈ ns.queue, ¬(x.kind = .change ∧ x.sent = none ∧ x.refId = item.refId)) ∧
        (ns.queue.length < 8 ∧ ns.place item = { ns with queue := ns.queue ++ [item] } ∨
          ns.place item = { ns with lost := satInc ns.lost }) := by
  by_cases h : item.kind ≠ .change ∨ ∀ x ∈ ns.queue, ¬(x.kind = .change ∧ x.sent = none ∧ x.refId = item.refId)
  · rw [NoticeState.place_unmerged h]
    refine .inr ⟨fun hk => h.resolve_left (not_not.mpr hk), ?_⟩
    by_cases room : ns.queue.length < 8
    · rw [if_pos room]
      exact .inl ⟨room, rfl⟩
    · rw [if_neg room]
      exact .inr rfl
  · push Not at h
    obtain ⟨hk, x, hx, hu⟩ := h
    exact .inl (NoticeState.place_merged hk hx hu)

theorem NoticeState.queueSound_place {ns : NoticeState} {item : Notice} (hsent : item.sent = none)
    (h : QueueSound ns.queue) : QueueSound (ns.place item).queue := by
  rcases NoticeState.place_cases ns item with merged | ⟨hnew, ⟨room, joined⟩ | lost⟩
  · rw [merged]
    exact h.congr (mark_mergeInto item ns.queue)
  · rw [joined]
    exact h.append room hsent hnew
  · rw [lost]
    exact h

/-- A notice is outstanding just when the head entry is sent. -/
theorem NoticeState.outstanding_isSome_iff (ns : NoticeState) :
    ns.outstanding.isSome = true ↔ ∃ x ∈ (ns.queue.map Notice.mark).head?, x.2.1.isSome = true := by
  unfold NoticeState.outstanding
  split
  · next e rest hq =>
    rw [hq]
    cases he : e.sent <;> simp [Notice.mark, he]
  · next hq => simp [hq]

/-- No item takes the place of the head entry. -/
theorem NoticeState.outstanding_place {ns : NoticeState} (item : Notice) (h : ns.outstanding.isSome = true) :
    (ns.place item).outstanding.isSome = true := by
  rw [NoticeState.outstanding_isSome_iff] at h ⊢
  rcases NoticeState.place_cases ns item with merged | ⟨-, ⟨-, joined⟩ | lost⟩
  · rw [merged, mark_mergeInto]
    exact h
  · rw [joined]
    cases hq : ns.queue with
    | nil => simp [hq] at h
    | cons e rest => simpa [hq] using h
  · rw [lost]
    exact h

/-- The removal of unsent entries leaves the outstanding notice. -/
theorem NoticeState.outstanding_unsubscribe {ns : NoticeState} (i : Fin 4) (id : Byte)
    (h : ns.outstanding.isSome = true) : (ns.unsubscribe i id).outstanding.isSome = true := by
  unfold NoticeState.outstanding at h
  split at h
  · next e rest hq =>
    cases he : e.sent with
    | none => simp [he] at h
    | some info => simp [NoticeState.unsubscribe, NoticeState.outstanding, hq, Notice.unsentChangeOf, he]
  · cases h

end Sys2Proof.Machine
end

section
/-! PROOFS. The notices of a port (R77, R118, R121, R123): what each operation on a port keeps of their soundness. -/

namespace Sys2Proof.Machine

/-! ### A port with sound notices -/

/-- What the notices need of a port in NOTIFYING, and out of it (R77, R121, R123). -/
def PortState.deliverySound (ps : PortState) : Prop :=
  if ps.session = .notifying then
    ps.notice.outstanding.isSome = true ∧ ps.transfer = none ∧ (ps.notice.tNtc = none ∨ ps.tx.slot = none)
  else (ps.session = .idle → ps.transfer = none) ∧ ps.notice.tNtc = none ∧ ps.tx.slot = none

theorem PortState.noticesSound_iff (ps : PortState) :
    ps.noticesSound ↔ QueueSound ps.notice.queue ∧ ps.deliverySound := by
  have none_iff {α : Type} (x : Option α) : x = none ↔ ¬x.isSome = true := by cases x <;> simp
  simp only [PortState.noticesSound, QueueSound, PortState.deliverySound, none_iff ps.notice.tNtc, and_assoc]
  by_cases hs : ps.session = .notifying
  · simp only [hs, if_true]
    rw [none_iff ps.tx.slot]
    tauto
  · simp only [hs, if_false]
    rw [none_iff ps.tx.slot]
    tauto

theorem PortState.deliverySound_notifying {ps : PortState} (hs : ps.session = .notifying) :
    ps.deliverySound ↔
      ps.notice.outstanding.isSome = true ∧ ps.transfer = none ∧ (ps.notice.tNtc = none ∨ ps.tx.slot = none) := by
  rw [PortState.deliverySound, if_pos hs]

theorem PortState.deliverySound_other {ps : PortState} (hs : ps.session ≠ .notifying) :
    ps.deliverySound ↔
      (ps.session = .idle → ps.transfer = none) ∧ ps.notice.tNtc = none ∧ ps.tx.slot = none := by
  rw [PortState.deliverySound, if_neg hs]

/-- A port in IDLE with no NTC waiting and no wait for an NTA. -/
theorem PortState.noticesSound_idle {ps : PortState} (hq : QueueSound ps.notice.queue) (hs : ps.session = .idle)
    (ht : ps.transfer = none) (hw : ps.notice.tNtc = none) (hslot : ps.tx.slot = none) : ps.noticesSound :=
  (PortState.noticesSound_iff ps).mpr ⟨hq, (PortState.deliverySound_other (by simp [hs])).mpr ⟨fun _ => ht, hw, hslot⟩⟩

/-- A change of a port's notices that keeps the queue within its limits, T_ntc, and a notice that is outstanding. -/
theorem PortState.noticesSound_modNotice {ps : PortState} {f : NoticeState → NoticeState} (h : ps.noticesSound)
    (hq : QueueSound (f ps.notice).queue) (hw : (f ps.notice).tNtc = ps.notice.tNtc)
    (ho : ps.notice.outstanding.isSome = true → (f ps.notice).outstanding.isSome = true) :
    (ps.modNotice f).noticesSound := by
  obtain ⟨-, delivery⟩ := (PortState.noticesSound_iff ps).mp h
  refine (PortState.noticesSound_iff _).mpr ⟨hq, ?_⟩
  by_cases hs : ps.session = .notifying
  · obtain ⟨outstanding, rest⟩ := (PortState.deliverySound_notifying hs).mp delivery
    refine (PortState.deliverySound_notifying (ps := ps.modNotice f) hs).mpr ⟨ho outstanding, ?_⟩
    rw [← hw] at rest
    exact rest
  · have rest := (PortState.deliverySound_other hs).mp delivery
    rw [← hw] at rest
    exact (PortState.deliverySound_other (ps := ps.modNotice f) hs).mpr rest

/-! ### Operations beside the notices -/

/-- What the operations beside the notices do to a port: the notices stay, no NTC is placed, and the session either
stays, with no transfer opened, or leaves a state with a transfer, or one that is not NOTIFYING, for one that is not
NOTIFYING. -/
structure BesideNotices (a b : PortState) : Prop where
  notice : b.notice = a.notice
  slot : b.tx.slot = a.tx.slot ∨ b.tx.slot = none
  session : b.session = a.session ∧ (a.transfer = none → b.transfer = none) ∨
    b.session ≠ .notifying ∧ (a.session = .notifying → a.transfer ≠ none) ∧ (b.session = .idle → b.transfer = none)

theorem BesideNotices.noticesSound {a b : PortState} (h : BesideNotices a b) (ha : a.noticesSound) :
    b.noticesSound := by
  obtain ⟨notice, slot, session⟩ := h
  rw [PortState.noticesSound_iff] at ha ⊢
  obtain ⟨queue, delivery⟩ := ha
  refine ⟨notice ▸ queue, ?_⟩
  simp only [PortState.deliverySound, notice] at delivery ⊢
  grind

theorem BesideNotices.refl (a : PortState) : BesideNotices a a := ⟨rfl, .inl rfl, .inl ⟨rfl, id⟩⟩

theorem BesideNotices.trans {a b c : PortState} (h : BesideNotices a b) (h' : BesideNotices b c) :
    BesideNotices a c := by
  obtain ⟨notice, slot, session⟩ := h
  obtain ⟨notice', slot', session'⟩ := h'
  exact ⟨notice'.trans notice, by grind, by grind⟩

/-- A transfer that is open goes on, in its session. -/
theorem BesideNotices.ofTransfer {a b : PortState} (hn : b.notice = a.notice) (hx : b.tx = a.tx)
    (hs : b.session = a.session) (ht : a.transfer ≠ none) : BesideNotices a b :=
  ⟨hn, .inl (by rw [hx]), .inl ⟨hs, fun h => absurd h ht⟩⟩

/-- The port leaves a session other than NOTIFYING for one that is neither NOTIFYING nor IDLE. -/
theorem BesideNotices.ofSession {a b : PortState} (hn : b.notice = a.notice) (hx : b.tx = a.tx)
    (ha : a.session ≠ .notifying) (hb : b.session ≠ .notifying ∧ b.session ≠ .idle) : BesideNotices a b :=
  ⟨hn, .inl (by rw [hx]), .inr ⟨hb.1, fun h => absurd h ha, fun h => absurd h hb.2⟩⟩

/-! ### Frames formed and sent -/

theorem PortState.besideNotices_pump (ps : PortState) : BesideNotices ps ps.pump := by
  unfold PortState.pump
  split
  · exact .refl ps
  · split
    · exact ⟨rfl, .inl rfl, .inl ⟨rfl, id⟩⟩
    · split
      · exact ⟨rfl, .inr rfl, .inl ⟨rfl, id⟩⟩
      · exact .refl ps

/-- The report of a FIN closes a transfer; that of a DAT starts T_ack (R97, R103). -/
theorem PortState.besideNotices_reportSession (ps : PortState) (f : TxFrame) :
    BesideNotices ps (ps.reportSession f) := by
  unfold PortState.reportSession
  cases f.origin with
  | reply => exact .refl ps
  | notice => exact .refl ps
  | segment seq =>
    unfold PortState.startTAck
    cases ht : ps.transfer with
    | none => exact .refl ps
    | some t =>
      dsimp only
      split
      · exact .ofTransfer rfl rfl rfl (by simp [ht])
      · exact .refl ps
  | closing =>
    unfold PortState.close
    cases ht : ps.transfer with
    | none => exact .refl ps
    | some t =>
      dsimp only
      split
      · exact ⟨rfl, .inl rfl, .inr ⟨nofun, fun _ => by simp [ht], fun _ => rfl⟩⟩
      · exact .refl ps

theorem PortState.besideNotices_form (ps : PortState) (f : TxFrame) : BesideNotices ps (ps.form f) := by
  have queued (queue : List TxFrame) : BesideNotices ps { ps with tx := { ps.tx with queue := queue } } :=
    ⟨rfl, .inl rfl, .inl ⟨rfl, id⟩⟩
  unfold PortState.form
  split
  · split
    · exact ((queued _).trans (PortState.besideNotices_reportSession _ _)).trans (PortState.besideNotices_pump _)
    · exact (queued _).trans (PortState.besideNotices_pump _)
  · exact (queued _).trans (PortState.besideNotices_pump _)

theorem BesideNotices.form {a b : PortState} (f : TxFrame) (h : BesideNotices a b) : BesideNotices a (b.form f) :=
  h.trans (PortState.besideNotices_form b f)

theorem PortState.besideNotices_respond (ps : PortState) (request : List Byte) (code : ReplyCode) (detail : List Byte)
    (final : Bool) : BesideNotices ps (ps.respond request code detail final) := by
  cases final with
  | false => exact PortState.besideNotices_form ps _
  | true => exact BesideNotices.form _ ⟨rfl, .inl rfl, .inl ⟨rfl, id⟩⟩

theorem BesideNotices.respond {a b : PortState} (request : List Byte) (code : ReplyCode) (detail : List Byte)
    (final : Bool) (h : BesideNotices a b) : BesideNotices a (b.respond request code detail final) :=
  h.trans (PortState.besideNotices_respond b _ _ _ _)

theorem PortState.besideNotices_refuse (ps : PortState) (request : List Byte) (code : ReplyCode) (detail : Word) :
    BesideNotices ps (ps.refuse request code detail) := PortState.besideNotices_respond ps _ _ _ _

/-- A FIN is formed where a transfer is open. -/
theorem BesideNotices.finish {a b : PortState} (t : Transfer) (outcome : FinOutcome) (gen : Gen) (detail : Byte)
    (h : BesideNotices a b) (ht : b.transfer ≠ none) : BesideNotices a (b.finish t outcome gen detail) :=
  h.trans (BesideNotices.form _ (.ofTransfer rfl rfl rfl ht))

/-! ### Transfers -/

theorem PortState.besideNotices_busy (ps : PortState) (request : List Byte) : BesideNotices ps (ps.busy request) := by
  unfold PortState.busy
  split
  · split
    · exact .refl ps
    · exact PortState.besideNotices_respond ps _ _ _ _
  · exact PortState.besideNotices_respond ps _ _ _ _

theorem PortState.besideNotices_repeatedDat (ps : PortState) (tag seq : Byte) :
    BesideNotices ps (ps.repeatedDat tag seq) := by
  unfold PortState.repeatedDat
  split
  · split
    · exact PortState.besideNotices_form ps _
    · exact .refl ps
  · exact .refl ps

theorem PortState.besideNotices_takeAck (ps : PortState) (payload : List Byte) :
    BesideNotices ps (ps.takeAck payload) := by
  unfold PortState.takeAck
  split
  · exact .refl ps
  · next t ha =>
    have opened : ps.transfer ≠ none := by simp [(PortState.answeredSegment_eq_some ha).2.1]
    dsimp only
    split
    · exact BesideNotices.form _ (.ofTransfer rfl rfl rfl opened)
    · exact BesideNotices.finish _ _ _ _ (.ofTransfer rfl rfl rfl opened) opened

theorem PortState.besideNotices_retrySegment {ps : PortState} (t : Transfer) (ht : ps.transfer ≠ none) :
    BesideNotices ps (ps.retrySegment t) := by
  rw [PortState.retrySegment_eq]
  split
  · exact BesideNotices.form _ (.ofTransfer rfl rfl rfl ht)
  · exact BesideNotices.finish _ _ _ _ (.ofTransfer rfl rfl rfl ht) nofun

theorem PortState.besideNotices_takeNak (ps : PortState) (payload : List Byte) :
    BesideNotices ps (ps.takeNak payload) := by
  unfold PortState.takeNak
  split
  · exact .refl ps
  · next t ha => exact PortState.besideNotices_retrySegment t (by simp [(PortState.answeredSegment_eq_some ha).2.1])

theorem PortState.besideNotices_segmentFault {ps : PortState} (t : Transfer) (ht : ps.transfer ≠ none) :
    BesideNotices ps (ps.segmentFault t) := by
  rw [PortState.segmentFault_eq]
  split
  · exact BesideNotices.form _ (.ofTransfer rfl rfl rfl ht)
  · exact BesideNotices.finish _ _ _ _ (.ofTransfer rfl rfl rfl ht) nofun

theorem PortState.besideNotices_takeAbt (ps : PortState) (payload : List Byte) :
    BesideNotices ps (ps.takeAbt payload) := by
  unfold PortState.takeAbt
  split
  · next t ht =>
    split
    · exact BesideNotices.finish _ _ _ _ (.refl ps) (by simp [ht])
    · exact .refl ps
  · exact .refl ps

theorem PortState.besideNotices_takeSnapshot {ps : PortState} (t : Transfer) (gen : Gen) (words : List Word)
    (ht : ps.transfer ≠ none) : BesideNotices ps (ps.takeSnapshot t gen words) :=
  BesideNotices.form _ (BesideNotices.respond _ _ _ _ (.ofTransfer rfl rfl rfl ht))

theorem PortState.besideNotices_charError (ps : PortState) : BesideNotices ps ps.charError := by
  unfold PortState.charError
  dsimp only
  split <;> exact ⟨rfl, .inl rfl, .inl ⟨rfl, id⟩⟩

/-! ### Delivery -/

/-- Delivery sends the head entry of an idle port, which is in NOTIFYING then, its NTC in the slot (R121). -/
theorem PortState.noticesSound_deliver {ps : PortState} (enabled : Bool) (h : ps.noticesSound) :
    (ps.deliver enabled).noticesSound := by
  by_cases sends : enabled = true ∧ ps.readyToSend = true
  · obtain ⟨rfl, ready⟩ := sends
    obtain ⟨idle, -, -, -, queued⟩ := (PortState.readyToSend_iff ps).mp ready
    obtain ⟨e, rest, hq⟩ := List.exists_cons_of_ne_nil queued
    obtain ⟨queue, delivery⟩ := (PortState.noticesSound_iff ps).mp h
    obtain ⟨noTransfer, noWait, -⟩ := (PortState.deliverySound_other (by simp [idle])).mp delivery
    obtain ⟨session, sent, -, -⟩ := PortState.deliver_sends ready hq
    rw [hq] at queue
    rw [PortState.noticesSound_iff, PortState.deliverySound_notifying session, (PortState.timing_deliver ps true).2, sent]
    refine ⟨?_, ?_, ?_, .inl noWait⟩
    · unfold NoticeState.headSent
      split
      · exact queue
      · exact queue.send _
    · rw [NoticeState.outstanding, sent, NoticeState.headSent]
      dsimp only
      split
      · rfl
      · rfl
    · rw [PortState.deliver_eq]
      exact noTransfer idle
  · rwa [PortState.deliver_silent sends]

/-- The placing of items leaves what is outstanding. -/
theorem PortState.noticesSound_place {ps : PortState} (items : List Notice) (hi : ∀ item ∈ items, item.sent = none)
    (h : ps.noticesSound) : (ps.modNotice fun ns => items.foldl NoticeState.place ns).noticesSound := by
  induction items generalizing ps with
  | nil => exact h
  | cons item items ih =>
    refine ih (ps := ps.modNotice fun ns => ns.place item) (fun x hx => hi x (List.mem_cons_of_mem item hx)) ?_
    have timer : (ps.notice.place item).tNtc = ps.notice.tNtc := by
      rcases NoticeState.place_cases ps.notice item with merged | ⟨-, ⟨-, joined⟩ | lost⟩
      · rw [merged]
      · rw [joined]
      · rw [lost]
    exact PortState.noticesSound_modNotice h
      (NoticeState.queueSound_place (hi item List.mem_cons_self) ((PortState.noticesSound_iff ps).mp h).1) timer
      (NoticeState.outstanding_place item)

theorem PortState.noticesSound_notify {ps : PortState} (enabled : Bool) {items : List Notice}
    (hi : ∀ item ∈ items, item.sent = none) (h : ps.noticesSound) : (ps.notify enabled items).noticesSound := by
  unfold PortState.notify
  split
  · exact PortState.noticesSound_deliver enabled (PortState.noticesSound_place items hi h)
  · exact h

/-- No item of a report is sent when it is made. -/
theorem sent_changeItems (r : Report) (gen : Gen) (q : Port) (subs : Vector (Option Subscription) 4) :
    ∀ item ∈ changeItems r gen q subs, item.sent = none := by
  intro item hi
  obtain ⟨i, -, hmade⟩ := List.mem_filterMap.mp hi
  unfold changeItem at hmade
  split at hmade
  · cases hmade
  · obtain ⟨range, -, rfl⟩ := Option.map_eq_some_iff.mp hmade
    rfl

theorem PortState.leaveNotifying_eq (ps : PortState) :
    ps.leaveNotifying = { ps with session := if ps.session = .notifying then .idle else ps.session } := by
  unfold PortState.leaveNotifying
  split <;> rfl

/-- Out of NOTIFYING into IDLE, with T_ntc stopped, the queue with what left it, and the slot empty (R124 to R126, R128). -/
theorem PortState.noticesSound_leaveNotifying {ps a : PortState} (h : ps.noticesSound)
    (hs : a.session = ps.session) (ht : a.transfer = ps.transfer) (hq : a.notice.queue.Sublist ps.notice.queue)
    (hw : a.notice.tNtc = none) (hslot : a.tx.slot = none) : a.leaveNotifying.noticesSound := by
  obtain ⟨queue, delivery⟩ := (PortState.noticesSound_iff ps).mp h
  have left := queue.sublist hq
  unfold PortState.leaveNotifying
  split
  · next notifying =>
    have atRest := (PortState.deliverySound_notifying (hs ▸ notifying)).mp delivery
    exact PortState.noticesSound_idle left rfl (ht.trans atRest.2.1) hw hslot
  · next other =>
    have engaged := (PortState.deliverySound_other (hs ▸ other)).mp delivery
    exact (PortState.noticesSound_iff a).mpr
      ⟨left, (PortState.deliverySound_other other).mpr ⟨fun idle => ht.trans (engaged.1 (hs ▸ idle)), hw, hslot⟩⟩

theorem PortState.noticesSound_suspendNotice {ps : PortState} (h : ps.noticesSound) : ps.suspendNotice.noticesSound :=
  PortState.noticesSound_leaveNotifying h rfl rfl (.refl _) rfl rfl

theorem PortState.noticesSound_takeNta {ps : PortState} (payload : List Byte) (h : ps.noticesSound) :
    (ps.takeNta payload).noticesSound := by
  unfold PortState.takeNta
  split
  · split
    · split
      · exact PortState.noticesSound_leaveNotifying h rfl rfl (List.tail_sublist _) rfl rfl
      · exact h
    · exact h
  · exact h

/-- T_ntc runs with the slot empty, and its expiry ends it (R123, R125). -/
theorem PortState.noticesSound_noticeExpiry {ps : PortState} {e : Notice} (limit : Nat) (enabled : Bool)
    (hd : ps.noticeDue = some e) (h : ps.noticesSound) : (ps.noticeExpiry e limit enabled).noticesSound := by
  have due : ps.session = .notifying ∧ ps.notice.tNtc = some 0 := by
    unfold PortState.noticeDue at hd
    split at hd
    · assumption
    · cases hd
  obtain ⟨notifying, wait⟩ := due
  obtain ⟨queue, delivery⟩ := (PortState.noticesSound_iff ps).mp h
  obtain ⟨outstanding, noTransfer, noSlot⟩ := (PortState.deliverySound_notifying notifying).mp delivery
  have slot : ps.tx.slot = none := noSlot.resolve_left (by simp [wait])
  unfold PortState.noticeExpiry
  dsimp only
  split
  · split
    · exact (PortState.noticesSound_iff _).mpr
        ⟨queue, (PortState.deliverySound_notifying rfl).mpr ⟨outstanding, noTransfer, .inl rfl⟩⟩
    · exact PortState.noticesSound_leaveNotifying h rfl rfl (.refl _) rfl slot
  · exact PortState.noticesSound_leaveNotifying h rfl rfl (List.tail_sublist _) rfl slot

/-- An NTC taken back had no T_ntc running (R123, R128). -/
theorem PortState.noticesSound_holdBack {ps : PortState} (h : ps.noticesSound) : ps.holdBack.noticesSound := by
  obtain ⟨-, -, -, -, -, timed, -⟩ := id h
  unfold PortState.holdBack
  split
  · next waits =>
    have noWait : ps.notice.tNtc = none := by
      cases hw : ps.notice.tNtc with
      | none => rfl
      | some w => simp [(timed (by simp [hw])).2] at waits
    exact PortState.noticesSound_leaveNotifying (a := ps.takeBack) h rfl rfl (.refl _) noWait rfl
  · exact h

theorem PortState.noticesSound_swapNotices {ps : PortState} (falls rises early enabled : Bool) {items : List Notice}
    (hi : ∀ item ∈ items, item.sent = none) (h : ps.noticesSound) :
    (ps.swapNotices falls rises early enabled items).noticesSound := by
  have held : (if falls then ps.holdBack else ps).noticesSound := by
    split
    · exact PortState.noticesSound_holdBack h
    · exact h
  have judged {a : PortState} (c : Bool) (ha : a.noticesSound) : (if c then a.deliver enabled else a).noticesSound := by
    split
    · exact PortState.noticesSound_deliver enabled ha
    · exact ha
  exact judged rises (PortState.noticesSound_notify enabled hi (judged (rises && early) held))

/-! ### The report of a sent frame -/

theorem PortState.noticesSound_reportNotice {ps : PortState} (wait : Nat) (h : ps.noticesSound) :
    (ps.reportNotice wait).noticesSound := by
  unfold PortState.reportNotice
  split
  · next c =>
    obtain ⟨notifying, outstanding, slot⟩ := c
    obtain ⟨queue, delivery⟩ := (PortState.noticesSound_iff ps).mp h
    obtain ⟨-, noTransfer, -⟩ := (PortState.deliverySound_notifying notifying).mp delivery
    exact (PortState.noticesSound_iff (ps.modNotice _)).mpr
      ⟨queue, (PortState.deliverySound_notifying (ps := ps.modNotice _) notifying).mpr
        ⟨outstanding, noTransfer, .inr slot⟩⟩
  · exact h

theorem PortState.noticesSound_frameSent {ps : PortState} (wait : Nat) (h : ps.noticesSound) :
    (ps.frameSent wait).noticesSound := by
  unfold PortState.frameSent PortState.reportSent
  split
  · have cut : { ps with tx := { ps.tx with sending := none } }.noticesSound := h
    refine (PortState.besideNotices_pump _).noticesSound ?_
    split
    · exact PortState.noticesSound_reportNotice wait cut
    · exact (PortState.besideNotices_reportSession _ _).noticesSound cut
  · exact h

/-! ### SUBSCRIBE and UNSUBSCRIBE -/

theorem PortState.noticesSound_subscribe {ps : PortState} (request : List Byte) (areaCode flags : Byte)
    (first count : Nat) (h : ps.noticesSound) : (ps.subscribe request areaCode flags first count).noticesSound := by
  have refused code detail : (ps.refuse request code detail).noticesSound :=
    (PortState.besideNotices_refuse ps _ _ _).noticesSound h
  unfold PortState.subscribe
  split
  · exact refused _ _
  · split
    · exact refused _ _
    · split
      · exact refused _ _
      · dsimp only
        split
        · exact refused _ _
        · split
          · exact refused _ _
          · exact (PortState.besideNotices_respond _ _ _ _ _).noticesSound h

/-- The entry that an UNSUBSCRIBE removes is unsent, and so not the outstanding notice (R113). -/
theorem PortState.noticesSound_unsubscribe {ps : PortState} (request : List Byte) (subId : Byte) (h : ps.noticesSound) :
    (ps.unsubscribe request subId).noticesSound := by
  have refused code detail : (ps.refuse request code detail).noticesSound :=
    (PortState.besideNotices_refuse ps _ _ _).noticesSound h
  unfold PortState.unsubscribe
  split
  · exact refused _ _
  · next i _ =>
    split
    · exact refused _ _
    · refine (PortState.besideNotices_respond _ _ _ _ _).noticesSound ?_
      exact PortState.noticesSound_modNotice h
        (((PortState.noticesSound_iff ps).mp h).1.sublist List.filter_sublist) rfl
        (NoticeState.outstanding_unsubscribe i subId)

/-! ### Breaks, RESET_N and time -/

/-- A port reset clears the notices, and ends every transfer (R109, R130). -/
theorem PortState.noticesSound_portReset (ps : PortState) : ps.portReset.noticesSound := by
  refine (PortState.noticesSound_iff _).mpr ⟨by simp [QueueSound, PortState.portReset, NoticeState.reset], ?_⟩
  refine (PortState.deliverySound_other ?_).mpr ⟨fun _ => rfl, rfl, rfl⟩
  simp only [PortState.portReset, PortState.resetSession]
  split <;> nofun

theorem PortState.noticesSound_stopped {ps : PortState} (h : ps.noticesSound) : ps.stopped.noticesSound :=
  PortState.noticesSound_idle ((PortState.noticesSound_iff ps).mp h).1 rfl rfl rfl rfl

theorem PortState.noticesSound_tick {ps : PortState} (h : ps.noticesSound) : ps.tick.noticesSound := by
  simpa [PortState.noticesSound, PortState.tick, countDown, NoticeState.outstanding] using h

end Sys2Proof.Machine
end

section
/-! PROOFS. The notices of every port stay sound: at the arrival of a frame, under each command, and at a step. -/

namespace Sys2Proof.Machine

/-! ### A frame at its port -/

section
variable {s : State} {p : Port}

theorem besideNotices_performTransfer (request : List Byte) (op : TransferOp) (areaCode flags : Byte)
    (first count : Nat) (hs : (s.port p).session = .idle) :
    BesideNotices (s.port p) ((s.performTransfer p request op areaCode flags first count).port p) := by
  unfold State.performTransfer
  split
  · rw [port_modPort_same]
    exact PortState.besideNotices_refuse ..
  · split
    · rw [port_modPort_same]
      exact PortState.besideNotices_refuse ..
    · dsimp only
      split
      · rw [acceptRead_eq, port_handOver, port_modPort_same]
        exact .ofSession rfl rfl (by simp [hs]) ⟨nofun, nofun⟩
      · rw [acceptWrite_eq, port_modPort_same]
        exact .respond _ _ _ _ (.ofSession rfl rfl (by simp [hs]) ⟨nofun, nofun⟩)

theorem besideNotices_performHold (request : List Byte) (areaCode : Byte) (first count : Nat) (lease : Word) :
    BesideNotices (s.port p) ((s.performHold p request areaCode first count lease).port p) := by
  unfold State.performHold
  split
  · rw [port_modPort_same]
    exact PortState.besideNotices_refuse ..
  · split
    · rw [port_modPort_same]
      exact PortState.besideNotices_refuse ..
    · rw [port_modPort_same, port_grantHold]
      exact PortState.besideNotices_respond ..

theorem besideNotices_performRelease (request : List Byte) (id : Byte) :
    BesideNotices (s.port p) ((s.performRelease p request id).port p) := by
  unfold State.performRelease
  split
  · rw [port_modPort_same]
    exact PortState.besideNotices_refuse ..
  · split
    · rw [port_modPort_same]
      exact PortState.besideNotices_refuse ..
    · rw [port_modPort_same, port_removeHold]
      exact PortState.besideNotices_respond ..

theorem besideNotices_performRenew (request : List Byte) (id : Byte) (lease : Word) :
    BesideNotices (s.port p) ((s.performRenew p request id lease).port p) := by
  unfold State.performRenew
  split
  · rw [port_modPort_same]
    exact PortState.besideNotices_refuse ..
  · split
    · rw [port_modPort_same]
      exact PortState.besideNotices_refuse ..
    · split
      · rw [port_modPort_same]
        exact PortState.besideNotices_refuse ..
      · rw [port_modPort_same, port_renewHold]
        exact PortState.besideNotices_respond ..

theorem besideNotices_performBankOp (request : List Byte) (c : Claim) :
    BesideNotices (s.port p) ((s.performBankOp p request c).port p) := by
  rw [State.performBankOp, port_handOver, port_modPort_same]
  exact ⟨rfl, .inl rfl, .inl ⟨rfl, id⟩⟩

/-- Of the requests SUBSCRIBE and UNSUBSCRIBE alone concern the notices. -/
theorem noticesSound_perform (request : List Byte) (r : Request) (hs : (s.port p).session = .idle)
    (h : (s.port p).noticesSound) : ((s.perform p request r).port p).noticesSound := by
  cases r with
  | read => exact (besideNotices_performTransfer _ _ _ _ _ _ hs).noticesSound h
  | write => exact (besideNotices_performTransfer _ _ _ _ _ _ hs).noticesSound h
  | mwrite => exact (besideNotices_performTransfer _ _ _ _ _ _ hs).noticesSound h
  | hold => exact (besideNotices_performHold _ _ _ _ _).noticesSound h
  | release => exact (besideNotices_performRelease _ _).noticesSound h
  | renew => exact (besideNotices_performRenew _ _ _).noticesSound h
  | subscribe =>
    rw [State.perform, port_modPort_same]
    exact PortState.noticesSound_subscribe _ _ _ _ _ h
  | unsubscribe =>
    rw [State.perform, port_modPort_same]
    exact PortState.noticesSound_unsubscribe _ _ h
  | swap => exact (besideNotices_performBankOp _ _).noticesSound h
  | copy => exact (besideNotices_performBankOp _ _).noticesSound h
  | ping =>
    rw [State.perform, State.performPing, port_modPort_same]
    exact (PortState.besideNotices_respond ..).noticesSound h

theorem noticesSound_judgeRequest (request : List Byte) (hs : (s.port p).session = .idle)
    (h : (s.port p).noticesSound) : ((s.judgeRequest p request).port p).noticesSound := by
  unfold State.judgeRequest
  split
  · rw [port_modPort_same]
    exact (PortState.besideNotices_form ..).noticesSound h
  · split
    · rw [port_modPort_same]
      exact (PortState.besideNotices_respond ..).noticesSound h
    · split
      · rw [port_modPort_same]
        exact (PortState.besideNotices_refuse ..).noticesSound h
      · exact noticesSound_perform _ _ hs h

theorem noticesSound_takeReq (request : List Byte) (h : (s.port p).noticesSound) :
    ((s.takeReq p request).port p).noticesSound := by
  have busy : ((s.modPort p fun ps => ps.busy request).port p).noticesSound := by
    rw [port_modPort_same]
    exact (PortState.besideNotices_busy ..).noticesSound h
  unfold State.takeReq
  split
  · exact h
  · split
    · next hs =>
      have suspended : ((s.modPort p PortState.suspendNotice).port p).session = .idle := by
        rw [port_modPort_same, PortState.suspendNotice, PortState.leaveNotifying_eq]
        exact if_pos hs
      refine noticesSound_judgeRequest _ suspended ?_
      rw [port_modPort_same]
      exact PortState.noticesSound_suspendNotice h
    · next hs =>
      split
      · exact busy
      · exact noticesSound_judgeRequest _ hs h
    · exact busy

/-- A DAT in RECEIVING stores its segment, is answered again, or is a fault (R92 to R94). -/
theorem besideNotices_receiveSegment {t : Transfer} (seq : Byte) (data : List Byte)
    (hs : (s.port p).session = .receiving) (ht : (s.port p).transfer = some t) :
    BesideNotices (s.port p) ((s.receiveSegment p t seq data).port p) := by
  have opened : (s.port p).transfer ≠ none := by simp [ht]
  by_cases expected : seq.toNat = t.seq ∧ 2 + data.length = expectedLen t.op t.count t.seq
  · by_cases more : t.seq + 1 < t.segments
    · rw [receiveSegment_next expected.1 expected.2 more, port_modPort_same]
      exact .form _ (.ofTransfer rfl rfl rfl opened)
    · rw [receiveSegment_last expected.1 expected.2 (Nat.not_lt.mp more), port_handOver, port_modPort_same]
      exact .ofSession rfl rfl (by simp [hs]) ⟨nofun, nofun⟩
  · by_cases again : seq.toNat + 1 = t.seq
    · rw [receiveSegment_again again, port_modPort_same]
      exact .form _ (.ofTransfer rfl rfl rfl opened)
    · rw [receiveSegment_fault expected again, port_modPort_same]
      exact BesideNotices.trans (b := { s.port p with tSeg := some t.wait }) (.ofTransfer rfl rfl rfl opened)
        (PortState.besideNotices_segmentFault t opened)

theorem besideNotices_takeDat (payload : List Byte) : BesideNotices (s.port p) ((s.takeDat p payload).port p) := by
  unfold State.takeDat
  split
  · dsimp only
    split
    · rw [port_modPort_same]
      exact PortState.besideNotices_repeatedDat ..
    · rw [port_modPort_same]
      exact PortState.besideNotices_repeatedDat ..
    · next t hs ht =>
      split
      · exact besideNotices_receiveSegment _ _ hs ht
      · exact .refl _
    · exact .refl _
  · exact .refl _

theorem noticesSound_takeFrame (kind : MasterKind) (payload : List Byte) (h : (s.port p).noticesSound) :
    ((s.takeFrame p kind payload).port p).noticesSound := by
  cases kind with
  | req => exact noticesSound_takeReq _ h
  | dat => exact (besideNotices_takeDat _).noticesSound h
  | ack =>
    rw [State.takeFrame, port_modPort_same]
    exact (PortState.besideNotices_takeAck ..).noticesSound h
  | nak =>
    rw [State.takeFrame, port_modPort_same]
    exact (PortState.besideNotices_takeNak ..).noticesSound h
  | abt =>
    rw [State.takeFrame, port_modPort_same]
    exact (PortState.besideNotices_takeAbt ..).noticesSound h
  | nta =>
    rw [State.takeFrame, port_modPort_same]
    exact PortState.noticesSound_takeNta _ h

end

/-! ### The part after each operation -/

/-- A change of the part outside its ports. -/
theorem NoticesSound.ofPorts {s t : State} (h : NoticesSound s) (hp : t.ports = s.ports) : NoticesSound t := fun p => by
  simpa only [State.port, hp] using h p

theorem NoticesSound.setPort {s : State} {p : Port} {ps : PortState} (h : NoticesSound s) (hp : ps.noticesSound) :
    NoticesSound (s.setPort p ps) := fun q => by
  rw [port_setPort]
  split
  · exact hp
  · exact h q

theorem NoticesSound.modPort {s : State} {p : Port} {f : PortState → PortState} (h : NoticesSound s)
    (hf : (s.port p).noticesSound → (f (s.port p)).noticesSound) : NoticesSound (s.modPort p f) := h.setPort (hf (h p))

/-- A change of one port beside its notices. -/
theorem NoticesSound.beside {s : State} {p : Port} {f : PortState → PortState} (h : NoticesSound s)
    (hf : BesideNotices (s.port p) (f (s.port p))) : NoticesSound (s.modPort p f) := h.modPort hf.noticesSound

theorem NoticesSound.judge {s : State} (p : Port) (h : NoticesSound s) : NoticesSound (s.judge p) :=
  h.modPort (PortState.noticesSound_deliver _)

theorem NoticesSound.report {s : State} (r : Report) (h : NoticesSound s) : NoticesSound (s.report r) := fun q => by
  rw [port_report]
  exact PortState.noticesSound_notify _ (sent_changeItems _ _ _ _) (h q)

theorem NoticesSound.reportItem {s : State} (q : Port) {item : Notice} (hi : item.sent = none) (h : NoticesSound s) :
    NoticesSound (s.reportItem q item) :=
  h.modPort (PortState.noticesSound_notify _ fun x hx => by rwa [List.mem_singleton.mp hx])

theorem NoticesSound.applyLine {s : State} (n : Line) (r : LineFilter × List Claim) (h : NoticesSound s) :
    NoticesSound (s.applyLine n r) := h.ofPorts (by simp [State.applyLine])

/-- The arrival of a frame, with the delivery that judges after it (R67, R127). -/
theorem NoticesSound.arrive {s : State} (p : Port) (kind : MasterKind) (payload : List Byte) (h : NoticesSound s) :
    NoticesSound (s.arrive p kind payload) := by
  have resumed : NoticesSound (s.modPort p PortState.resumed) := h.modPort fun hp => hp
  refine NoticesSound.judge p fun q => ?_
  by_cases hq : q = p
  · subst hq
    exact noticesSound_takeFrame kind payload (resumed q)
  · exact (frameEffect_takeFrame (s.modPort p PortState.resumed) p kind payload).others q hq ▸ resumed q

/-- The outcome of a commit forms the FIN of the transfer, or leaves a port that has been reset at rest (R102, R109). -/
theorem NoticesSound.commitDone {s : State} (p : Port) (outcome : FinOutcome) (gen : Gen) (detail : Byte)
    (h : NoticesSound s) : NoticesSound (s.commitDone p outcome gen detail) := by
  by_cases hs : (s.port p).session = .committing
  · cases ht : (s.port p).transfer with
    | some t =>
      rw [State.commitDone_open _ _ _ hs ht]
      exact h.setPort ((BesideNotices.finish _ _ _ _ (.refl _) (by simp [ht])).noticesSound (h p))
    | none =>
      rw [State.commitDone_reset _ _ _ hs ht]
      have freed : BesideNotices (s.port p) { s.port p with buffer := [], session := .idle } :=
        ⟨rfl, .inl rfl, .inr ⟨nofun, by simp [hs], fun _ => ht⟩⟩
      exact NoticesSound.judge p (h.setPort (freed.noticesSound (h p)))
  · rwa [State.commitDone_other _ _ _ hs]

theorem NoticesSound.takeCommit {s : State} (p : Port) (op : WriteOp) (r : Region) (first count : Nat)
    (h : NoticesSound s) : NoticesSound (s.takeCommit p op r first count) := by
  unfold State.takeCommit
  cases commitCheck s.image s.holds p r first count with
  | ok =>
    refine NoticesSound.commitDone _ _ _ _ (NoticesSound.report _ ?_)
    split
    · exact h.ofPorts (by simp [State.outputCommit])
    · exact h.ofPorts rfl
  | held id => exact h.commitDone _ _ _ _
  | stale => exact h.commitDone _ _ _ _

theorem PortState.besideNotices_answered (ps : PortState) (code : ReplyCode) (detail : List Byte) (owed : BankRequest) :
    BesideNotices ps (ps.answered code detail owed) := by
  have freed : BesideNotices ps { ps with bankRequest := none } := ⟨rfl, .inl rfl, .inl ⟨rfl, id⟩⟩
  cases owed with
  | owed request => exact freed.respond _ _ _ _
  | orphaned => exact freed

theorem NoticesSound.bankDone {s : State} (p : Port) (code : ReplyCode) (detail : List Byte) (h : NoticesSound s) :
    NoticesSound (s.bankDone p code detail) := by
  cases hb : (s.port p).bankRequest with
  | none => rwa [State.bankDone_none _ _ hb]
  | some owed =>
    rw [State.bankDone_some _ _ hb]
    exact NoticesSound.judge p (h.setPort ((PortState.besideNotices_answered ..).noticesSound (h p)))

theorem NoticesSound.performSwap {s : State} (h : NoticesSound s) : NoticesSound s.performSwap := fun q => by
  rw [port_performSwap]
  exact PortState.noticesSound_swapNotices _ _ _ _ (sent_changeItems _ _ _ _) (h q)

theorem NoticesSound.enterFallback {s : State} (g : Group) (h : NoticesSound s) : NoticesSound (s.enterFallback g) := by
  unfold State.enterFallback
  dsimp only
  split
  · exact NoticesSound.reportItem _ rfl (h.ofPorts (by simp))
  · exact h.ofPorts (by simp)

theorem NoticesSound.goodCharacter {s : State} (p : Port) (data : Byte) (h : NoticesSound s) :
    NoticesSound (s.goodCharacter p data) := by
  have taken : NoticesSound (s.modPort p fun ps => ps.modRx fun rx =>
      rx.complete ((s.port p).rx.assembly.take data).1) := h.modPort fun hp => hp
  unfold State.goodCharacter
  dsimp only
  split
  · exact taken
  · exact taken.modPort fun hp => hp
  · exact taken.arrive _ _ _

theorem NoticesSound.whenReleased {s : State} {f : State → State} (h : NoticesSound s) (hf : NoticesSound (f s)) :
    NoticesSound (s.whenReleased f) := State.of_whenReleased (motive := NoticesSound) h fun _ => hf

/-! ### The commands -/

theorem NoticesSound.tNtcExpiry {s : State} (p : Port) (h : NoticesSound s) :
    ∃ t, execTNtcExpiry p s = .next t ∧ NoticesSound t := by
  refine ⟨_, rfl, h.whenReleased (h.modPort fun hp => ?_)⟩
  split
  · next e hd => exact PortState.noticesSound_noticeExpiry _ _ hd hp
  · exact hp

/-- A wait runs out at an open transfer alone (R91, R97). -/
theorem PortState.transfer_of_due {ps : PortState} {t : Transfer} (h : ps.segDue = some t ∨ ps.ackDue = some t) :
    ps.transfer = some t := by
  unfold PortState.segDue PortState.ackDue at h
  rcases h with h | h
  · split at h
    · next ht _ => rw [ht, h]
    · cases h
  · split at h
    · next ht _ => rw [ht, h]
    · cases h

/-- A wait of an open transfer that runs out (R95, R100). -/
theorem NoticesSound.transferExpiry {s : State} {c : Instr} {p : Port} (hc : c = .tSegExpiry p ∨ c = .tAckExpiry p)
    (h : NoticesSound s) : ∃ t, exec c s = .next t ∧ NoticesSound t := by
  have counted {t : Transfer} (ht : (s.port p).transfer = some t) :
      (s.port p).transfer ≠ none ∧ BesideNotices (s.port p) ((s.port p).count Counters.timeout) :=
    ⟨by simp [ht], .ofTransfer rfl rfl rfl (by simp [ht])⟩
  rcases hc with rfl | rfl
  · refine ⟨_, rfl, h.whenReleased (h.beside ?_)⟩
    split
    · next t hd =>
      obtain ⟨opened, counted⟩ := counted (PortState.transfer_of_due (.inl hd))
      exact counted.finish _ _ _ _ opened
    · exact .refl _
  · refine ⟨_, rfl, h.whenReleased (h.beside ?_)⟩
    split
    · next t hd =>
      obtain ⟨opened, counted⟩ := counted (PortState.transfer_of_due (.inr hd))
      exact counted.trans (PortState.besideNotices_retrySegment t opened)
    · exact .refl _

theorem NoticesSound.execSnapshot {s : State} (p : Port) (h : NoticesSound s) :
    ∃ t, execSnapshot p s = .next t ∧ NoticesSound t := by
  refine ⟨_, rfl, h.whenReleased ?_⟩
  split
  · refine NoticesSound.beside (h.ofPorts rfl) ?_
    split
    · next t _ ht => exact PortState.besideNotices_takeSnapshot t _ _ (by simp [ht])
    · exact .refl _
  · exact h

theorem NoticesSound.execSwapClaim {s : State} (p : Port) (h : NoticesSound s) :
    ∃ t, execSwapClaim p s = .next t ∧ NoticesSound t := by
  refine ⟨_, rfl, h.whenReleased ?_⟩
  split
  · next c rest _ =>
    have taken : NoticesSound { s with claims := rest } := h.ofPorts rfl
    dsimp only
    split
    · exact taken.bankDone _ _ _
    · split
      · exact taken.bankDone _ _ _
      · exact taken.performSwap.bankDone _ _ _
  · exact h

theorem NoticesSound.execCopyClaim {s : State} (p : Port) (h : NoticesSound s) :
    ∃ t, execCopyClaim p s = .next t ∧ NoticesSound t := by
  refine ⟨_, rfl, h.whenReleased ?_⟩
  split
  · dsimp only
    split
    · exact NoticesSound.bankDone _ _ _ (h.ofPorts rfl)
    · exact NoticesSound.bankDone _ _ _ (NoticesSound.report _ (h.ofPorts rfl))
  · exact h

/-- Every command keeps the notices sound. -/
theorem noticesSound_exec {s : State} (c : Instr) (h : NoticesSound s) : ∃ t, exec c s = .next t ∧ NoticesSound t := by
  cases hframe : frameOf c with
  | some frame =>
    refine ⟨_, exec_of_frameOf hframe s, h.whenReleased ?_⟩
    split
    · exact h
    · exact h.arrive _ _ _
  | none =>
    cases c with
    | resetNAssert =>
      refine ⟨_, rfl, fun p => ?_⟩
      simpa [State.port, Vector.get_eq_getElem] using PortState.noticesSound_stopped (h p)
    | resetNRelease rate par =>
      refine ⟨_, exec_resetNRelease s rate par, fun p => ?_⟩
      rw [port_released]
      exact PortState.noticesSound_idle (by simp [QueueSound, PortState.reset, NoticeState.reset]) rfl rfl rfl rfl
    | characterReceived p data parityBit stopBit =>
      refine ⟨_, rfl, ?_⟩
      split
      · exact h.modPort fun hp => hp
      · split
        · exact h
        · split
          · exact h.goodCharacter _ _
          · exact h.beside (PortState.besideNotices_charError _)
          · exact h.modPort fun hp => hp
    | framingError p =>
      refine ⟨_, rfl, ?_⟩
      split
      · exact h.modPort fun hp => hp
      · refine h.beside ?_
        split
        · exact .refl _
        · exact PortState.besideNotices_charError _
    | gapLimitExpiry p =>
      refine ⟨_, rfl, h.whenReleased (h.modPort fun hp => ?_)⟩
      split <;> exact hp
    | breakDetected p =>
      refine ⟨_, rfl, h.whenReleased ?_⟩
      split
      · exact h
      · exact NoticesSound.ofPorts (h.modPort fun _ => PortState.noticesSound_portReset _) rfl
    | breakEnd p =>
      refine ⟨_, rfl, ?_⟩
      split
      · exact h.modPort fun hp => hp
      · split
        · exact NoticesSound.judge p (h.modPort fun hp => (PortState.besideNotices_pump _).noticesSound (by exact hp))
        · exact h
    | frameSent p =>
      refine ⟨_, rfl, h.whenReleased ?_⟩
      dsimp only
      split
      · exact NoticesSound.judge p (h.setPort
          (PortState.noticesSound_frameSent _ ((PortState.besideNotices_pump _).noticesSound (h p))))
      · exact h
    | tSegExpiry p => exact h.transferExpiry (.inl rfl)
    | tAckExpiry p => exact h.transferExpiry (.inr rfl)
    | tNtcExpiry p => exact h.tNtcExpiry p
    | leaseExpiry id =>
      refine ⟨_, rfl, h.whenReleased ?_⟩
      split
      · exact h
      · exact NoticesSound.reportItem _ rfl (h.ofPorts rfl)
    | refreshTimerExpiry g =>
      refine ⟨_, rfl, h.whenReleased ?_⟩
      split
      · exact h.enterFallback g
      · exact h
    | inputTransition n level =>
      refine ⟨_, rfl, ?_⟩
      split
      · exact h.ofPorts rfl
      · exact h.applyLine _ _
    | measurementExpiry n =>
      refine ⟨_, rfl, h.whenReleased ?_⟩
      split
      · exact h.applyLine _ _
      · exact h
    | commit p =>
      refine ⟨_, rfl, h.whenReleased ?_⟩
      split
      · exact NoticesSound.takeCommit _ _ _ _ _ (h.ofPorts rfl)
      · exact h
    | snapshot p => exact h.execSnapshot p
    | inputUpdate n =>
      refine ⟨_, rfl, h.whenReleased ?_⟩
      split
      · exact NoticesSound.applyLine _ _ (NoticesSound.report _ (h.ofPorts rfl))
      · exact h
    | swapClaim p => exact h.execSwapClaim p
    | copyClaim p => exact h.execCopyClaim p
    | startBit p =>
      refine ⟨_, rfl, ?_⟩
      split
      · exact h.modPort fun hp => hp
      · refine h.modPort fun hp => ?_
        split <;> exact hp
    | _ => simp [frameOf] at hframe

theorem noticesSound_of_exec {c : Instr} {s t : State} (h : NoticesSound s) (he : exec c s = .next t) :
    NoticesSound t := by
  obtain ⟨t', he', sound⟩ := noticesSound_exec c h
  obtain rfl := Host.Outcome.next.inj (he.symm.trans he')
  exact sound

theorem NoticesSound.tick {s : State} (h : NoticesSound s) : NoticesSound s.tick :=
  h.whenReleased fun p => by simpa [State.port, Vector.get_eq_getElem] using PortState.noticesSound_tick (h p)

/-- Settles O57: a step is a command, the beginning of frames, or a millisecond, and each keeps the notices sound. -/
theorem stepKeepsNoticesSound : Obligations.StepKeepsNoticesSound := by
  intro s t h hstep
  unfold step at hstep
  split at hstep
  · next c rest _ =>
    have queued : NoticesSound { s with pending := rest } := h
    exact noticesSound_of_exec queued hstep
  · split at hstep
    · cases hstep
      intro p
      rw [port_beginFrames]
      exact (PortState.besideNotices_pump _).noticesSound (h p)
    · split at hstep
      · exact noticesSound_of_exec h hstep
      · cases hstep
        exact NoticesSound.tick h

end Sys2Proof.Machine
end

section
/-! PROOFS. An item's place in a queue, and which subscriptions a report reaches (R115, R119). -/

namespace Sys2Proof.Machine

/-! ### The placing of an item -/

/-- An item merges into the first unsent CHANGE entry of its subscription. -/
theorem mergeInto_append {item e : Notice} {before after : List Notice}
    (hb : ∀ x ∈ before, ¬(x.kind = .change ∧ x.sent = none ∧ x.refId = item.refId))
    (he : e.kind = .change ∧ e.sent = none ∧ e.refId = item.refId) :
    mergeInto item (before ++ e :: after) = before ++ e.merge item :: after := by
  induction before with
  | nil => rw [List.nil_append, mergeInto, if_pos (Notice.unsentChangeOf_iff.mpr he), List.nil_append]
  | cons x before ih =>
    rw [List.cons_append, mergeInto, if_neg (mt Notice.unsentChangeOf_iff.mp (hb x List.mem_cons_self)),
      ih fun y hy => hb y (List.mem_cons_of_mem x hy), List.cons_append]

/-! ### Reports of banks -/

/-- The ends of a rising list are its lowest and its highest member. -/
theorem ends_of_rising {indices : List Nat} {low high : Nat} (rising : indices.Pairwise (· < ·)) (hl : low ∈ indices)
    (hh : high ∈ indices) (between : ∀ k ∈ indices, low ≤ k ∧ k ≤ high) : ends indices = some (low, high) := by
  have first := head?_of_pairwise rising hl fun k hk => Nat.not_lt.mpr (between k hk).1
  have last := head?_of_pairwise (List.pairwise_reverse.mpr rising) (List.mem_reverse.mpr hh) fun k hk =>
    Nat.not_lt.mpr (between k (List.mem_reverse.mp hk)).2
  rw [List.head?_reverse] at last
  simp only [ends, first, last]

/-- Settles O37: an item merges, joins or is lost; a report reaches a subscription by its area, its range and its flags. -/
theorem reportsMakeAndPlaceItems : Obligations.ReportsMakeAndPlaceItems := by
  refine ⟨fun ns item => ⟨fun before e after hq hk he hs hid hb => ?_, fun hnew => ?_⟩,
    fun q sub => ⟨fun _ _ _ _ => rfl, fun _ => rfl, fun indices rising => ?_⟩⟩
  · rw [NoticeState.place_merged hk (by simp [hq]) ⟨he, hs, hid⟩, hq, mergeInto_append hb ⟨he, hs, hid⟩]
    rfl
  · rw [NoticeState.place_unmerged hnew]
    refine ⟨fun room => if_pos room, fun full => ?_⟩
    rw [if_neg (Nat.not_lt.mpr full)]
    exact ⟨rfl, toNat_satInc ns.lost⟩
  · intro inside
    have span : spanWithin indices sub.first sub.last = ends inside := rfl
    simp only [Report.reaches, span]
    refine ⟨fun unreached => ?_, fun low high harea hlow hhigh between => ?_⟩
    · rcases unreached with harea | empty
      · simp only [harea, false_and, if_false, and_self]
      · rw [empty]
        exact ⟨ite_self _, ite_self _⟩
    · rw [ends_of_rising (rising.filter _) hlow hhigh between]
      simp only [harea, if_true, true_and, and_self]

end Sys2Proof.Machine
end

section
/-! PROOFS. NTA and T_NTC_EXPIRY: the end of the wait for an outstanding notice (R120, R123 to R126, R129). -/

namespace Sys2Proof.Machine

/-! ### NTA -/

/-- The lost count less a value, not below 0 (R120). -/
theorem toNat_satSub (c d : Byte) : (satSub c d).toNat = c.toNat - d.toNat := by
  unfold satSub
  split
  · next h => exact BitVec.toNat_sub_of_le h
  · next h =>
    rw [Nat.sub_eq_zero_of_le (Nat.le_of_not_le h)]
    rfl

theorem NoticeState.outstanding_eq {ns : NoticeState} {e : Notice} {rest : List Notice} (hq : ns.queue = e :: rest)
    (he : e.sent.isSome = true) : ns.outstanding = some e := by
  rw [NoticeState.outstanding, hq]
  exact if_pos he

/-- A port whose outstanding notice has been acknowledged (R124). -/
def PortState.acknowledged (ps : PortState) (info : SentInfo) : PortState :=
  { ps with
    tx := { ps.tx with slot := none }
    session := if ps.session = .notifying then .idle else ps.session
    notice := ps.notice.acknowledge info.lost }

/-- An NTA of the outstanding seq acknowledges the notice (R124). -/
theorem PortState.takeNta_outstanding {ps : PortState} {e : Notice} {rest : List Notice} {info : SentInfo}
    (hq : ps.notice.queue = e :: rest) (he : e.sent = some info) :
    ps.takeNta [info.seq] = ps.acknowledged info := by
  have outstanding : ps.notice.outstanding = some e := NoticeState.outstanding_eq hq (by simp [he])
  simp only [PortState.takeNta, outstanding, he, if_true, PortState.leaveNotifying_eq]
  rfl

/-- A retry count at 0 stays there at a delivery (R121). -/
theorem PortState.retry_deliver_zero {ps : PortState} (enabled : Bool) (h : ps.notice.retry = 0) :
    (ps.deliver enabled).notice.retry = 0 := by
  by_cases sends : enabled = true ∧ ps.readyToSend = true
  · obtain ⟨rfl, ready⟩ := sends
    obtain ⟨e, rest, hq⟩ := List.exists_cons_of_ne_nil ((PortState.readyToSend_iff ps).mp ready).2.2.2.2
    rw [PortState.retry_deliver ready hq, h, ite_self]
  · rw [PortState.deliver_silent sends, h]

theorem exec_nta {p : Port} {s : State} {e : Notice} {rest : List Notice} {info : SentInfo} (h : Listens s p)
    (hq : (s.port p).notice.queue = e :: rest) (he : e.sent = some info) :
    exec (.nta p [info.seq]) s =
      .next (s.modPort p fun ps => (ps.resumed.acknowledged info).deliver (s.enabled p)) := by
  have taken : s.arrive p .nta [info.seq] =
      s.modPort p fun ps => (ps.resumed.takeNta [info.seq]).deliver (s.enabled p) := arrive_port (f := fun ps => ps.takeNta [info.seq]) rfl
  rw [exec_frame rfl h, taken]
  refine congrArg _ (modPort_congr ?_)
  rw [PortState.takeNta_outstanding (ps := (s.port p).resumed) hq he]

/-- Settles O35: the notice is acknowledged, and delivery judges the port after it. -/
theorem ntaAcknowledgesTheNotice : Obligations.NtaAcknowledgesTheNotice := by
  intro p s e rest info h hq he unsent
  refine ⟨_, exec_nta h hq he, onlyPort_modPort .., ?_⟩
  rw [port_modPort_same]
  let a := (s.port p).resumed.acknowledged info
  have queue : a.notice.queue = rest := congrArg List.tail hq
  obtain ⟨subs, lost, entries⟩ := PortState.sameNotices_deliver a (s.enabled p)
  obtain ⟨paused, timer⟩ := PortState.timing_deliver a (s.enabled p)
  refine ⟨by rw [entries, queue], ?_, PortState.retry_deliver_zero _ rfl, paused, timer, subs, ?_, fun silent => ?_,
    fun e2 rest2 hon hrest atRest => ?_⟩
  · rw [lost]
    exact toNat_satSub _ _
  · rw [PortState.deliver_eq]
    rfl
  · have stays : a.deliver (s.enabled p) = a := by
      refine PortState.deliver_silent fun ⟨hon, ready⟩ => ?_
      obtain ⟨idle, noRequest, -, -, queued⟩ := (PortState.readyToSend_iff a).mp ready
      rcases silent with off | empty | pending | ⟨busy, quiet⟩
      · rw [off] at hon
        cases hon
      · exact queued (queue.trans empty)
      · simp [show (s.port p).bankRequest = none from noRequest] at pending
      · exact busy ((if_neg quiet).symm.trans idle)
    rw [stays]
    exact ⟨queue, rfl, rfl⟩
  · obtain ⟨session, -, noRequest⟩ := atRest
    have idle : a.session = .idle := by
      show (if (s.port p).session = .notifying then SessionState.idle else (s.port p).session) = .idle
      rcases session with hs | hs <;> simp [hs]
    have ready : a.readyToSend = true := (PortState.readyToSend_iff a).mpr
      ⟨idle, noRequest, PortState.held_of_ne_brk h.2, rfl, by simp [queue, hrest]⟩
    obtain ⟨notifying, sent, -, seq⟩ := PortState.deliver_sends ready (queue.trans hrest)
    have first : e2.sent = none := unsent e2 (by simp [hrest])
    rw [hon] at lost ⊢
    refine ⟨notifying, sent.trans ?_, seq.trans (by rw [first]; rfl)⟩
    rw [NoticeState.headSent, first, lost]
    rfl

/-! ### T_NTC_EXPIRY -/

/-- The expiry of a wait that has run out is taken (R123, R125). -/
theorem exec_tNtcExpiry {p : Port} {s : State} {e : Notice} {rest : List Notice} (hlow : s.resetLow = false)
    (hs : (s.port p).session = .notifying) (hw : (s.port p).notice.tNtc = some 0)
    (hq : (s.port p).notice.queue = e :: rest) (he : e.sent.isSome = true) :
    exec (.tNtcExpiry p) s =
      .next (s.modPort p fun ps => ps.noticeExpiry e (s.image.liveWord 53).toNat (s.enabled p)) := by
  have due : (s.port p).noticeDue = some e := by
    rw [PortState.noticeDue, if_pos ⟨hs, hw⟩, NoticeState.outstanding_eq hq he]
  rw [exec, execTNtcExpiry, State.whenReleased_high hlow]
  refine congrArg _ (modPort_congr ?_)
  rw [due]

section
variable {ps : PortState} {e : Notice} {limit : Nat}

/-- Within the limit, under the bit at 1, the same NTC is placed again. -/
theorem PortState.noticeExpiry_again (hs : ps.session = .notifying) (hl : ps.notice.retry + 1 ≤ limit) :
    ps.noticeExpiry e limit true =
      { ps with
        tx := { ps.tx with slot := some (ntcFrame e) }
        notice := { ps.notice with retry := ps.notice.retry + 1, tNtc := none } } := by
  have within : (ps.modNotice fun ns => { ns with retry := ns.retry + 1, tNtc := none }).notice.retry ≤ limit := hl
  rw [PortState.noticeExpiry, if_pos within, if_pos rfl, PortState.placeNtc, ← hs]
  rfl

/-- Within the limit, under the bit at 0, the notice is held back, and the port is at rest. -/
theorem PortState.noticeExpiry_heldBack (hs : ps.session = .notifying) (hl : ps.notice.retry + 1 ≤ limit) :
    ps.noticeExpiry e limit false =
      { ps with
        session := .idle
        notice := { ps.notice with retry := ps.notice.retry + 1, tNtc := none } } := by
  have within : (ps.modNotice fun ns => { ns with retry := ns.retry + 1, tNtc := none }).notice.retry ≤ limit := hl
  rw [PortState.noticeExpiry, if_pos within, if_neg Bool.false_ne_true]
  exact if_pos hs

/-- Past the limit the entry is dropped, and the port is at rest. -/
theorem PortState.noticeExpiry_dropped {rest : List Notice} (enabled : Bool) (hs : ps.session = .notifying)
    (hq : ps.notice.queue = e :: rest) (hl : limit < ps.notice.retry + 1) :
    ps.noticeExpiry e limit enabled =
      { ps with
        session := .idle
        notice := { ps.notice with queue := rest, lost := satInc ps.notice.lost, retry := 0, paused := true
                                   tNtc := none } } := by
  have past : ¬(ps.modNotice fun ns => { ns with retry := ns.retry + 1, tNtc := none }).notice.retry ≤ limit :=
    Nat.not_le.mpr hl
  have tail : rest = ps.notice.queue.tail := by rw [hq, List.tail_cons]
  rw [PortState.noticeExpiry, if_neg past, tail]
  exact if_pos hs

end

/-- A READ that is accepted in NOTIFYING takes the waiting NTC back and suspends the notice (R126, R129). -/
theorem exec_read_notifying {s : State} {p : Port} {tag flags : Byte} {area : Area} {first count : Word}
    (hs : (s.port p).session = .notifying) (h : Performs s p ((Request.read area.code flags first count).payload tag))
    (h1 : 1 ≤ count.toNat) (hin : first.toNat + count.toNat ≤ area.size) (hl : count.toNat ≤ 256) :
    ∃ u, exec (.read p tag area.code flags first count) s = .next u ∧ (u.port p).session = .sending ∧
      (u.port p).tx = { (s.port p).tx with slot := none } ∧
      (u.port p).notice = { (s.port p).notice with tNtc := none, paused := false } := by
  have passes : transferRefusal s.holds p .read area first.toNat count.toNat = none := by
    rw [transferRefusal_inside ((area.admits_iff .read).mpr (.inl rfl)) ⟨h1, hin, hl⟩, if_pos rfl]
  obtain ⟨timer, slot⟩ := PortState.readied_notifying hs
  have ready := PortState.readied_eq h.2.1.1
  rw [timer, slot] at ready
  refine ⟨_, exec_transfer_sending h passes, ?_⟩
  rw [port_handOver, port_modPort_same, ready]
  exact ⟨rfl, rfl, rfl⟩

/-- Settles O36: the three outcomes of the expiry, and the READ that comes after the first. -/
theorem noticeWaitRunsOut : Obligations.NoticeWaitRunsOut := by
  intro p s e rest h hs hw hq he
  have taken := exec_tNtcExpiry h.1 hs hw hq he
  refine ⟨fun hl hon => ?_, fun hl hoff => ?_, fun hl => ?_⟩
  · refine ⟨_, taken, onlyPort_modPort .., ?_⟩
    have placed := PortState.noticeExpiry_again (e := e) hs hl
    rw [hon, port_modPort_same, placed]
    refine ⟨rfl, fun tag flags area first count performs h1 hin hlimit => ?_⟩
    have port := (port_modPort_same s p fun ps => ps.noticeExpiry e (s.image.liveWord 53).toNat true).trans placed
    obtain ⟨u, accepted, session, tx, notice⟩ :=
      exec_read_notifying (by rw [port]; exact hs) performs h1 hin hlimit
    rw [port] at tx notice
    exact ⟨u, accepted, session, tx, notice⟩
  · refine ⟨_, taken, onlyPort_modPort .., ?_⟩
    rw [hoff, port_modPort_same, PortState.noticeExpiry_heldBack hs hl]
  · refine ⟨_, taken, onlyPort_modPort .., ?_⟩
    rw [port_modPort_same, PortState.noticeExpiry_dropped _ hs hq hl]
    exact ⟨toNat_satInc _, rfl⟩

end Sys2Proof.Machine
end

section
/-! PROOFS. SUBSCRIBE and UNSUBSCRIBE (R112, R113): the checks in their order, the subscription made or removed, and the
reply. -/

namespace Sys2Proof.Machine

/-! ### The subscription table -/

theorem mem_places (i : Fin 4) : i ∈ [(0 : Fin 4), 1, 2, 3] := by
  revert i
  decide

theorem any_places {subs : Vector (Option Subscription) 4} {sub : Option Subscription} :
    ([0, 1, 2, 3].any fun i : Fin 4 => subs.get i = sub) = true ↔ ∃ i, subs.get i = sub := by
  simp only [List.any_eq_true, decide_eq_true_eq, mem_places, true_and]

/-- The table after one place is set. -/
theorem get_set_place (subs : Vector (Option Subscription) 4) (i j : Fin 4) (x : Option Subscription) :
    (subs.set i x).get j = if j = i then x else subs.get j := by
  by_cases h : j = i
  · simp [h, Vector.get_eq_getElem]
  · have other : ¬(i : Nat) = j := fun e => h (Fin.ext e.symm)
    simp [h, other, Vector.get_eq_getElem]

/-- No place is free just when every place holds a subscription. -/
theorem freePlace_eq_none {subs : Vector (Option Subscription) 4} (h : ∀ i, subs.get i ≠ none) :
    freePlace subs = none :=
   List.find?_eq_none.mpr fun i _ free => h i (Option.isNone_iff_eq_none.mp free)

/-- The smallest free id is taken (R112). -/
theorem freePlace_eq_some {subs : Vector (Option Subscription) 4} {i : Fin 4} (hi : subs.get i = none)
    (least : ∀ j, j < i → subs.get j ≠ none) : freePlace subs = some i := by
  cases hf : freePlace subs with
  | none => exact absurd (List.find?_eq_none.mp hf i (mem_places i)) (by simp [hi])
  | some j =>
    obtain ⟨free, before, after, places, used⟩ := List.find?_eq_some_iff_append.mp hf
    have rising : [(0 : Fin 4), 1, 2, 3].Pairwise (· < ·) := by decide
    rw [places] at rising
    rcases List.mem_append.mp (places ▸ mem_places i) with hb | hb
    · simpa [hi] using used i hb
    · rcases List.mem_cons.mp hb with rfl | ha
      · rfl
      · have below : j < i := (List.pairwise_cons.mp (List.pairwise_append.mp rising).2.1).1 i ha
        exact absurd (Option.isNone_iff_eq_none.mp free) (least j below)

/-- The ids are 1 to 4, and each names its place (R113). -/
theorem placeOf_eq_some {id : Byte} {i : Fin 4} : placeOf id = some i ↔ id.toNat = i.val + 1 := by
  unfold placeOf
  refine ⟨fun h => ?_, fun h => ?_⟩
  · split at h <;> cases h <;> assumption
  · have places : ∀ k : Fin 4, placeOf (BitVec.ofNat 8 (k.val + 1)) = some k := by decide
    have named : id = BitVec.ofNat 8 (i.val + 1) := by
      apply BitVec.eq_of_toNat_eq
      rw [h, BitVec.toNat_ofNat]
      omega
    rw [named]
    exact places i

/-! ### The checks of a SUBSCRIBE -/

section
variable {ps : PortState} {request : List Byte} {areaCode flags : Byte} {area : Area} {first count : Nat}

theorem PortState.subscribe_badarea (h : ∀ area : Area, area.code = areaCode → area = .dia) :
    ps.subscribe request areaCode flags first count = ps.refuse request .badarea 0 := by
  unfold PortState.subscribe
  split
  · rfl
  · next area ha => rw [if_pos (h area (areaOf_eq_some.mp ha))]

theorem PortState.subscribe_range (ha : area ≠ .dia) (h : ¬(1 ≤ count ∧ first + count ≤ area.size)) :
    ps.subscribe request area.code flags first count = ps.refuse request .range 0 := by
  have outside : rangeInside area first count = false := Bool.eq_false_iff.mpr (mt rangeInside_iff.mp h)
  rw [PortState.subscribe, areaOf_code]
  simp only [if_neg ha, outside, Bool.not_false, if_true]

/-- The port that has taken a subscription, before its reply is formed. -/
def PortState.subscribed (ps : PortState) (i : Fin 4) (sub : Subscription) : PortState :=
  ps.modNotice fun ns => { ns with subs := ns.subs.set i (some sub) }

section
variable (ha : area ≠ .dia) (h : 1 ≤ count ∧ first + count ≤ area.size)
include ha h

theorem PortState.subscribe_duplicate (hdup : ∃ i, ps.notice.subs.get i = some (subscriptionOf area flags first count)) :
    ps.subscribe request area.code flags first count = ps.refuse request .duplicate 0 := by
  rw [PortState.subscribe, areaOf_code]
  simp only [if_neg ha, rangeInside_iff.mpr h, Bool.not_true, Bool.false_eq_true, if_false, any_places.mpr hdup, if_true]

variable (hnew : ∀ i, ps.notice.subs.get i ≠ some (subscriptionOf area flags first count))
include hnew

theorem PortState.subscribe_limit (hfull : freePlace ps.notice.subs = none) :
    ps.subscribe request area.code flags first count = ps.refuse request .limit 0 := by
  rw [PortState.subscribe, areaOf_code]
  simp only [if_neg ha, rangeInside_iff.mpr h, Bool.not_true, Bool.false_eq_true, if_false,
    if_neg (mt any_places.mp (not_exists.mpr hnew)), hfull]

theorem PortState.subscribe_done {i : Fin 4} (hfree : freePlace ps.notice.subs = some i) :
    ps.subscribe request area.code flags first count =
      (ps.subscribed i (subscriptionOf area flags first count)).respond request .done [BitVec.ofNat 8 (i.val + 1)]
        true := by
  rw [PortState.subscribe, areaOf_code]
  simp only [if_neg ha, rangeInside_iff.mpr h, Bool.not_true, Bool.false_eq_true, if_false,
    if_neg (mt any_places.mp (not_exists.mpr hnew)), hfree]
  rfl

end

/-! ### UNSUBSCRIBE -/

theorem PortState.unsubscribe_notfound {id : Byte}
    (h : ∀ i : Fin 4, id.toNat = i.val + 1 → ps.notice.subs.get i = none) :
    ps.unsubscribe request id = ps.refuse request .notfound 0 := by
  unfold PortState.unsubscribe
  split
  · rfl
  · next i hi => rw [if_pos (by simp [h i (placeOf_eq_some.mp hi)])]

theorem PortState.unsubscribe_done {id : Byte} {i : Fin 4} (hid : id.toNat = i.val + 1)
    (hsub : ps.notice.subs.get i ≠ none) :
    ps.unsubscribe request id = (ps.modNotice fun ns => ns.unsubscribe i id).respond request .done [] true := by
  rw [PortState.unsubscribe, placeOf_eq_some.mpr hid]
  exact if_neg (by simpa using hsub)

end

/-! ### The reply of a request that changes the notices -/

/-- A final reply formed where a request at rest has changed the notices of its port, and delivery after it, are all that
its master sees (R81, R84, R121). -/
theorem PortState.answers_changed {ps : PortState} (h : AtRest ps) (change : NoticeState → NoticeState)
    (request : List Byte) (code : ReplyCode) (detail : List Byte) (enabled : Bool) :
    let b := ((ps.readied.modNotice change).respond request code detail true).deliver enabled
    b.tx.frames = ps.tx.joined (rspFrame request code.byte detail) ∧
      b.record = some { request := request, replyKind := .rsp, reply := tagOf request :: code.byte :: detail } ∧
      SameNotices (change ps.readied.notice) b.notice ∧
      b = { ps with tx := b.tx, record := b.record, session := b.session, notice := b.notice } := by
  have ready := PortState.readied_eq h.1
  generalize ps.readied = r at ready ⊢
  have noTransfer : (r.modNotice change).transfer = none := by
    rw [ready]
    exact h.2.1
  obtain ⟨frames, answered⟩ := PortState.respond_final (r.modNotice change) request code detail noTransfer
  generalize (r.modNotice change).respond request code detail true = a at frames answered ⊢
  have told := PortState.sameNotices_deliver a enabled
  refine ⟨?_, ?_, ?_, ?_⟩
  · rw [PortState.frames_deliver]
    show a.tx.frames = _
    rw [frames, ready]
    rfl
  · rw [PortState.deliver_eq, answered]
  · rw [answered] at told ⊢
    exact told
  · rw [PortState.deliver_eq, answered, PortState.modNotice, ready]

theorem perform_subscribe (u : State) (p : Port) (request : List Byte) (areaCode flags : Byte) (first count : Word) :
    u.perform p request (.subscribe areaCode flags first count) =
      u.modPort p fun ps => ps.subscribe request areaCode flags first.toNat count.toNat := rfl

theorem perform_unsubscribe (u : State) (p : Port) (request : List Byte) (id : Byte) :
    u.perform p request (.unsubscribe id) = u.modPort p fun ps => ps.unsubscribe request id := rfl

section
variable {i : Instr} {p : Port} {tag : Byte} {r : Request} {s : State} {f : PortState → PortState}

/-- A request that its port refuses. -/
theorem exec_refuses_port {code : ReplyCode} {detail : Word} (hi : frameOf i = some (p, .req, r.payload tag))
    (h : Performs s p (r.payload tag)) (hr : ∀ u : State, u.perform p (r.payload tag) r = u.modPort p f)
    (hf : f (s.port p).readied = (s.port p).readied.refuse (r.payload tag) code detail) :
    ∃ t, exec i s = .next t ∧ Refused s t p (r.payload tag) code.byte detail :=
  exec_refuses hi h ((hr _).trans (modPort_congr (by rw [port_modPort_same, hf])))

/-- A request that changes the notices of its port, and is answered DONE (R112, R113). -/
theorem exec_changes {change : NoticeState → NoticeState} {detail : List Byte}
    (hi : frameOf i = some (p, .req, r.payload tag)) (h : Performs s p (r.payload tag))
    (hr : ∀ u : State, u.perform p (r.payload tag) r = u.modPort p f)
    (hf : f (s.port p).readied =
      ((s.port p).readied.modNotice change).respond (r.payload tag) .done detail true) :
    ∃ t, exec i s = .next t ∧ OnlyPort s t p ∧
      (t.port p).tx.frames = (s.port p).tx.joined (rspFrame (r.payload tag) 0x01 detail) ∧
      (t.port p).record = some { request := r.payload tag, replyKind := .rsp, reply := tag :: 0x01 :: detail } ∧
      SameNotices (change (s.port p).readied.notice) (t.port p).notice ∧
      t.port p =
        { s.port p with tx := (t.port p).tx, record := (t.port p).record, session := (t.port p).session
                        notice := (t.port p).notice } := by
  have performed : exec i s = .next (s.modPort p fun ps => (f ps.readied).deliver (s.enabled p)) := by
    rw [exec_performs hi h, hr, State.judge, modPort_modPort, modPort_modPort]
    rfl
  refine ⟨_, performed, onlyPort_modPort .., ?_⟩
  rw [port_modPort_same, hf]
  exact PortState.answers_changed h.2.1 change (r.payload tag) .done detail (s.enabled p)

end

/-- The subscription table and the entries that a request meets are those of its port. -/
theorem PortState.notice_readied {ps : PortState} (h : AtRest ps) :
    ps.readied.notice.subs = ps.notice.subs ∧ ps.readied.notice.queue = ps.notice.queue ∧
      ps.readied.notice.lost = ps.notice.lost := by
  rw [PortState.readied_eq h.1]
  exact ⟨rfl, rfl, rfl⟩

/-- Settles O24: check by check for SUBSCRIBE, then the two outcomes of UNSUBSCRIBE. -/
theorem subscriptionsComeAndGo : Obligations.SubscriptionsComeAndGo := by
  refine ⟨fun p tag areaCode flags first count s h => ?_, fun p tag id s h => ?_⟩
  · obtain ⟨subs, queue, lost⟩ := PortState.notice_readied h.2.1
    have performed (u : State) := perform_subscribe u p
      ((Request.subscribe areaCode flags first count).payload tag) areaCode flags first count
    refine ⟨fun h1 h2 h3 h4 => ?_, ?_⟩
    · refine exec_refuses_port (code := .badarea) rfl h performed (PortState.subscribe_badarea fun area ha => ?_)
      cases area with
      | inp => exact absurd ha.symm h1
      | out => exact absurd ha.symm h2
      | wrd => exact absurd ha.symm h3
      | prm => exact absurd ha.symm h4
      | dia => rfl
    · rintro area rfl hdia
      rw [← subs]
      refine ⟨fun outside => ?_, fun hcount hin => ⟨fun dup => ?_, fun new full => ?_, fun i new free least => ?_⟩⟩
      · exact exec_refuses_port (code := .range) rfl h performed (PortState.subscribe_range hdia outside)
      · exact exec_refuses_port (code := .duplicate) rfl h performed
          (PortState.subscribe_duplicate hdia ⟨hcount, hin⟩ dup)
      · exact exec_refuses_port (code := .limit) rfl h performed
          (PortState.subscribe_limit hdia ⟨hcount, hin⟩ new (freePlace_eq_none full))
      · obtain ⟨t, he, only, frames, record, ⟨table, lost', entries⟩, rest⟩ := exec_changes
          (i := .subscribe p tag area.code flags first count) rfl h performed
          (PortState.subscribe_done hdia ⟨hcount, hin⟩ new (freePlace_eq_some free least))
        refine ⟨t, he, only, frames, record, fun j => ?_, ?_, lost'.trans lost, rest⟩
        · rw [table]
          exact get_set_place ..
        · rw [entries, ← queue]
  · obtain ⟨subs, queue, lost⟩ := PortState.notice_readied h.2.1
    have performed (u : State) := perform_unsubscribe u p ((Request.unsubscribe id).payload tag) id
    rw [← subs, ← queue]
    refine ⟨fun absent => ?_, fun i hid hsub => ?_⟩
    · exact exec_refuses_port (code := .notfound) rfl h performed (PortState.unsubscribe_notfound absent)
    · obtain ⟨t, he, only, frames, record, ⟨table, lost', entries⟩, rest⟩ :=
        exec_changes (i := .unsubscribe p tag id) rfl h performed (PortState.unsubscribe_done hid hsub)
      refine ⟨t, he, only, frames, record, fun j => ?_, entries, lost'.trans lost, rest⟩
      rw [table]
      exact get_set_place ..

end Sys2Proof.Machine
end

section
/-! PROOFS. INPUT_TRANSITION and MEASUREMENT_EXPIRY: a measurement started, cancelled or ended, and the line settled (R134
to R137). -/

namespace Sys2Proof.Machine

/-! ### A transition of the line level -/

section
variable {l : LineFilter} {n : Line} {f : Nat} {level : Bool} (hl : level ≠ l.level)
include hl

/-- A transition while a measurement runs cancels it (R135). -/
theorem LineFilter.transition_cancels (hm : l.measuring.isSome = true) :
    l.transition n f level = ({ l with level := level, measuring := none }, []) := by
  obtain ⟨m, hm⟩ := Option.isSome_iff_exists.mp hm
  simp only [LineFilter.transition, if_neg hl, hm]

/-- A transition away from the settled level starts a measurement (R134). -/
theorem LineFilter.transition_starts (hm : l.measuring = none) (hs : level ≠ l.settled) (hf : 1 ≤ f) :
    l.transition n f level = ({ l with level := level, measuring := some { candidate := level, held := 0 } }, []) := by
  simp only [LineFilter.transition, if_neg hl, hm, if_neg hs, if_neg (Nat.one_le_iff_ne_zero.mp hf)]

/-- With a filter time of 0 it settles the line at once (R134). -/
theorem LineFilter.transition_settles (hm : l.measuring = none) (hs : level ≠ l.settled) (hf : f = 0) :
    l.transition n f level = { l with level := level }.settle n level := by
  simp only [LineFilter.transition, if_neg hl, hm, if_neg hs, if_pos hf]

end

/-! ### A line's filter put back -/

section
variable (s : State) (n : Line)

/-- All that putting back a line's filter may change. -/
theorem State.applyLine_eq (r : LineFilter × List Claim) :
    s.applyLine n r = { s with lines := (s.applyLine n r).lines, claims := (s.applyLine n r).claims } := by
  rw [State.applyLine, State.handOver_eq]
  rfl

theorem line_applyLine_same (r : LineFilter × List Claim) : (s.applyLine n r).line n = r.1 := by
  rw [State.applyLine, line_handOver, line_setLine_same]

theorem line_applyLine_other {m : Line} (r : LineFilter × List Claim) (h : m ≠ n) :
    (s.applyLine n r).line m = s.line m := by
  rw [State.applyLine, line_handOver, line_setLine_other _ _ _ _ h]

/-- A filter put back with no claim to hand over. -/
theorem applyLine_silent (l : LineFilter) :
    s.applyLine n (l, []) = { s with lines := (s.applyLine n (l, [])).lines } ∧
      (∀ m, m ≠ n → (s.applyLine n (l, [])).line m = s.line m) ∧ (s.applyLine n (l, [])).line n = l :=
  ⟨rfl, fun _ => line_applyLine_other s n _, line_applyLine_same s n _⟩

/-- The claims once a line has settled: its update state says whether one is handed over (R136, R137). -/
theorem claims_applyLine_settle (l : LineFilter) (level : Bool) :
    (s.applyLine n (l.settle n level)).claims =
      if l.update = .none then s.claims ++ [[.inputUpdate n level]] else s.claims := by
  rw [State.applyLine, claims_handOver, LineFilter.settle_claims]
  split <;> rfl

/-- A line that settles, in the form the claim about it uses (R136, R137). -/
theorem applyLine_settle (l : LineFilter) (level : Bool) :
    let t := s.applyLine n (l.settle n level)
    t = { s with lines := t.lines, claims := t.claims } ∧ (∀ m, m ≠ n → t.line m = s.line m) ∧
      t.line n = { l with settled := level, measuring := none, update := (t.line n).update } ∧
      (l.update = .none → (t.line n).update = .waiting ∧ t.claims = s.claims ++ [[.inputUpdate n level]]) ∧
      (l.update = .waiting → (t.line n).update = .waitingHeld ∧ t.claims = s.claims) ∧
      (l.update = .waitingHeld → (t.line n).update = .waiting ∧ t.claims = s.claims) := by
  have settled := (line_applyLine_same s n (l.settle n level)).trans (LineFilter.settle_line l n level)
  refine ⟨State.applyLine_eq s n _, fun m => line_applyLine_other s n _, ?_, fun hu => ?_, fun hu => ?_, fun hu => ?_⟩
  · rw [settled]
  all_goals
    rw [claims_applyLine_settle, settled, hu]
    exact ⟨rfl, rfl⟩

end

/-! ### The two commands -/

theorem exec_inputTransition {n : Line} {level : Bool} {s : State} (hlow : s.resetLow = false) :
    exec (.inputTransition n level) s =
      .next (s.applyLine n ((s.line n).transition n (s.image.filterTime n) level)) := by
  rw [exec, execInputTransition, if_neg (Bool.eq_false_iff.mp hlow)]

theorem exec_measurementExpiry {n : Line} {s : State} {m : Measurement} (hlow : s.resetLow = false)
    (hm : (s.line n).measuring = some m) (hf : s.image.filterTime n ≤ m.held) :
    exec (.measurementExpiry n) s = .next (s.applyLine n ((s.line n).settle n m.candidate)) := by
  have due : (s.line n).due (s.image.filterTime n) = some m := by simp [LineFilter.due, hm, hf]
  rw [exec, execMeasurementExpiry, State.whenReleased_high hlow, due]

/-- Settles O38: the transition by what the line measures and by its filter time, then the expiry. -/
theorem inputLineIsFiltered : Obligations.InputLineIsFiltered := by
  refine ⟨fun n level s hlow hl => ?_, fun n s m hlow hm hf => ?_⟩
  · rw [exec_inputTransition hlow]
    refine ⟨fun hm => ?_, fun hm hs hf => ?_, fun hm hs hf => ?_⟩
    · rw [LineFilter.transition_cancels hl hm]
      exact ⟨_, rfl, applyLine_silent ..⟩
    · rw [LineFilter.transition_starts (f := s.image.filterTime n) hl hm hs hf]
      exact ⟨_, rfl, applyLine_silent ..⟩
    · rw [LineFilter.transition_settles (f := s.image.filterTime n) hl hm hs hf]
      exact ⟨_, rfl, applyLine_settle s n { s.line n with level := level } level⟩
  · exact ⟨_, exec_measurementExpiry hlow hm hf, applyLine_settle s n (s.line n) m.candidate⟩

end Sys2Proof.Machine
end

section
/-! PROOFS. The input lines in step with their claims and IN bits (R133 to R137): what each move of a filter keeps, and what
the part keeps as claims are handed over and taken and as the image changes. -/

namespace Sys2Proof.Machine

/-! ### One line -/

/-- The claims of a line that wait by its update state (R133, R137). -/
def LineFilter.owed (l : LineFilter) (n : Line) : List Claim :=
  match l.update with
  | .none => []
  | .waiting => [.inputUpdate n l.settled]
  | .waitingHeld => [.inputUpdate n (!l.settled)]

/-- The level of the line's IN bit by its update state (R133). -/
def LineFilter.shown (l : LineFilter) : Bool :=
  match l.update with
  | .none => l.settled
  | .waiting => !l.settled
  | .waitingHeld => l.settled

/-- A measurement runs just while the line is away from its settled level, within the filter time (R133 to R135). -/
def LineFilter.measured (l : LineFilter) (f : Nat) : Prop :=
  (l.measuring = none → l.level = l.settled) ∧
    ∀ m ∈ l.measuring, m.candidate = (!l.settled) ∧ l.level = (!l.settled) ∧ 1 ≤ f ∧ m.held ≤ f

/-- A move of a line's filter, to `r.1` under filter time `f`, that accounts for the claims `r.2` it hands over and leaves
the IN bit to the arbiter. -/
structure LineFilter.Moves (l : LineFilter) (n : Line) (f : Nat) (r : LineFilter × List Claim) : Prop where
  measured : r.1.measured f
  owed : r.1.owed n = l.owed n ++ r.2
  shown : r.1.shown = l.shown

/-- A move that leaves the settled level and the update state hands nothing over. -/
theorem LineFilter.moves_silent {l l' : LineFilter} {n : Line} {f : Nat} (hm : l'.measured f)
    (hs : l'.settled = l.settled) (hu : l'.update = l.update) : l.Moves n f (l', []) :=
  ⟨hm, by simp only [LineFilter.owed, hs, hu, List.append_nil], by simp only [LineFilter.shown, hs, hu]⟩

/-- A line that settles at the level it was measured at, or went to, accounts for its claim (R136, R137). -/
theorem LineFilter.moves_settle {l : LineFilter} {n : Line} (f : Nat) {level : Bool} (hl : l.level = level)
    (hs : level = !l.settled) : l.Moves n f (l.settle n level) := by
  subst hs
  refine ⟨?_, ?_, ?_⟩
  · rw [LineFilter.settle_line]
    exact ⟨fun _ => hl, nofun⟩
  all_goals
    unfold LineFilter.settle
    cases hu : l.update <;> simp [LineFilter.owed, LineFilter.shown, hu]

/-- A transition (R134, R135): by what the line measures, and where it measures nothing by the level it goes to. -/
theorem LineFilter.moves_transition {l : LineFilter} {n : Line} {f : Nat} (level : Bool) (h : l.measured f) :
    l.Moves n f (l.transition n f level) := by
  obtain ⟨rest, running⟩ := h
  by_cases hl : level = l.level
  · rw [LineFilter.transition, if_pos hl]
    exact LineFilter.moves_silent ⟨rest, running⟩ rfl rfl
  · cases hm : l.measuring with
    | some m =>
      obtain ⟨-, away, -, -⟩ := running m hm
      rw [LineFilter.transition_cancels hl (by rw [hm]; rfl)]
      refine LineFilter.moves_silent ⟨fun _ => ?_, nofun⟩ rfl rfl
      simpa [away] using hl
    | none =>
      have away : level = !l.settled := Bool.eq_not.mpr (rest hm ▸ hl)
      have hs : level ≠ l.settled := by simp [away]
      by_cases hf : f = 0
      · rw [LineFilter.transition_settles hl hm hs hf]
        obtain ⟨measured, owed, shown⟩ := LineFilter.moves_settle (l := { l with level := level }) (n := n) f rfl away
        exact ⟨measured, owed, shown⟩
      · have hf : 1 ≤ f := Nat.one_le_iff_ne_zero.mpr hf
        rw [LineFilter.transition_starts hl hm hs hf]
        refine LineFilter.moves_silent ⟨nofun, fun m hm => ?_⟩ rfl rfl
        cases hm
        exact ⟨away, away, hf, Nat.zero_le f⟩

/-- A new filter time (R139): the measurement goes on, restarts, or ends with the line settled. -/
theorem LineFilter.moves_newFilterTime {l : LineFilter} {n : Line} {former : Nat} (new : Nat) (h : l.measured former) :
    l.Moves n new (l.newFilterTime n former new) := by
  obtain ⟨rest, running⟩ := h
  cases hm : l.measuring with
  | none =>
    rw [LineFilter.newFilterTime_stays (.inl hm)]
    exact LineFilter.moves_silent ⟨rest, by simp [hm]⟩ rfl rfl
  | some m =>
    obtain ⟨candidate, away, -, -⟩ := running m hm
    by_cases hn : new = former
    · rw [LineFilter.newFilterTime_stays (.inr hn), hn]
      exact LineFilter.moves_silent ⟨rest, running⟩ rfl rfl
    · by_cases h0 : new = 0
      · rw [LineFilter.newFilterTime_settles hm hn h0]
        exact LineFilter.moves_settle new (away.trans candidate.symm) candidate
      · rw [LineFilter.newFilterTime_restarts hm hn h0]
        refine LineFilter.moves_silent ⟨nofun, fun m' hm' => ?_⟩ rfl rfl
        cases hm'
        exact ⟨candidate, away, Nat.one_le_iff_ne_zero.mpr h0, Nat.zero_le new⟩

/-- A millisecond (R133): the held time goes up to the filter time and no further. -/
theorem LineFilter.moves_tick {l : LineFilter} {n : Line} {f : Nat} (h : l.measured f) : l.Moves n f (l.tick f, []) := by
  obtain ⟨rest, running⟩ := h
  refine LineFilter.moves_silent ⟨fun hm => rest (Option.map_eq_none_iff.mp hm), fun m hm => ?_⟩ rfl rfl
  obtain ⟨m', hm', rfl⟩ := Option.map_eq_some_iff.mp hm
  obtain ⟨candidate, away, hf, held⟩ := running m' hm'
  refine ⟨candidate, away, hf, ?_⟩
  dsimp only
  split
  · next hlt => exact hlt
  · exact held

/-- The claim that is taken is the one owed: what is then owed is handed over, and the IN bit's level was the claim's (R137). -/
theorem LineFilter.owed_updateTaken {l : LineFilter} {n : Line} {level : Bool} {left : List Claim}
    (h : l.owed n = .inputUpdate n level :: left) :
    (l.updateTaken n).1.owed n = left ++ (l.updateTaken n).2 ∧ (l.updateTaken n).1.shown = level := by
  unfold LineFilter.owed at h
  split at h
  · cases h
  · next hu =>
    cases h
    simp [LineFilter.updateTaken, LineFilter.owed, LineFilter.shown, hu]
  · next hu =>
    cases h
    simp [LineFilter.updateTaken, LineFilter.owed, LineFilter.shown, hu]

theorem LineFilter.measured_updateTaken {l : LineFilter} {n : Line} {f : Nat} (h : l.measured f) :
    (l.updateTaken n).1.measured f := by
  unfold LineFilter.updateTaken
  cases l.update <;> exact h

/-! ### Claims of lines -/

/-- A claim of line `n`, as one hands it over. -/
def Claim.ofLine (n : Line) (c : Claim) : Prop := ∃ level, c = .inputUpdate n level

theorem Claim.ofLine_of_isInputOf {n : Line} {c : Claim} (h : c.isInputOf n = true) : c.ofLine n := by
  cases c with
  | inputUpdate m level =>
    obtain rfl : m = n := by simpa [Claim.isInputOf] using h
    exact ⟨level, rfl⟩
  | _ => cases h

/-- A claim of a port is no line's. -/
theorem Claim.isInputOf_of_port {c : Claim} (h : c.port ≠ none) (n : Line) : c.isInputOf n = false := by
  cases c with
  | inputUpdate => exact absurd rfl h
  | _ => rfl

theorem Claim.writesInputs_of_ofLine {n : Line} {c : Claim} (h : c.ofLine n) : c.writesInputs = false := by
  obtain ⟨level, rfl⟩ := h
  rfl

theorem LineFilter.ofLine_owed (l : LineFilter) (n : Line) : ∀ c ∈ l.owed n, c.ofLine n := by
  unfold LineFilter.owed
  cases l.update with
  | none => exact nofun
  | waiting => exact fun c hc => ⟨_, List.mem_singleton.mp hc⟩
  | waitingHeld => exact fun c hc => ⟨_, List.mem_singleton.mp hc⟩

theorem LineFilter.Moves.ofLine {l : LineFilter} {n : Line} {f : Nat} {r : LineFilter × List Claim} (h : l.Moves n f r) :
    ∀ c ∈ r.2, c.ofLine n := fun c hc =>
  LineFilter.ofLine_owed r.1 n c (by rw [h.owed]; exact List.mem_append_right _ hc)

/-- The claims of one line, sought among its own and among another line's. -/
theorem filter_isInputOf {n : Line} {cs : List Claim} (h : ∀ c ∈ cs, c.ofLine n) (k : Line) :
    cs.filter (Claim.isInputOf k) = if k = n then cs else [] := by
  split
  · next hk =>
    refine List.filter_eq_self.mpr fun c hc => ?_
    obtain ⟨level, rfl⟩ := h c hc
    simp [Claim.isInputOf, hk]
  · next hk =>
    refine List.filter_eq_nil_iff.mpr fun c hc => ?_
    obtain ⟨level, rfl⟩ := h c hc
    simp [Claim.isInputOf, Ne.symm hk]

/-- Of the claims that all lines hand over together, those of one line are the ones it hands over. -/
theorem filter_flatMap_isInputOf {g : Line → List Claim} (h : ∀ k, ∀ c ∈ g k, c.ofLine k) (n : Line) :
    (allLines.flatMap g).filter (Claim.isInputOf n) = g n := by
  have only (l : List Line) (hn : n ∉ l) : (l.flatMap g).filter (Claim.isInputOf n) = [] := by
    rw [List.filter_flatMap]
    refine List.flatMap_eq_nil_iff.mpr fun k hk => ?_
    rw [filter_isInputOf (h k), if_neg fun e : n = k => hn (e ▸ hk)]
  obtain ⟨before, after, place⟩ := List.append_of_mem (List.mem_finRange n)
  have nodup := List.nodup_finRange 32
  rw [place] at nodup
  obtain ⟨hafter, hbefore⟩ : n ∉ after ∧ n ∉ before := by
    have apart := List.nodup_append.mp nodup
    exact ⟨(List.nodup_cons.mp apart.2.1).1, fun hb => apart.2.2 n hb n (List.mem_cons_self ..) rfl⟩
  rw [allLines, place, List.flatMap_append, List.flatMap_cons, List.filter_append, List.filter_append, only _ hbefore,
    only _ hafter, filter_isInputOf (h n), if_pos rfl, List.nil_append, List.append_nil]

/-! ### The part in step with its lines -/

/-- Every line is in step with its waiting claims and its IN bit, counting claims in `hand`, made and not yet handed over;
no batch is empty and no claim writes IN. -/
structure State.inputsWith (s : State) (hand : List Claim) : Prop where
  batches : ∀ batch ∈ s.claims, batch ≠ []
  writes : ∀ c ∈ s.claims.flatten ++ hand, c.writesInputs = false
  measured : ∀ n, (s.line n).measured (s.image.filterTime n)
  owed : ∀ n, s.lineClaims n ++ hand.filter (Claim.isInputOf n) = (s.line n).owed n
  shown : ∀ n, s.image.inputBit n = (s.line n).shown

/-- The clauses of the invariant about an update state say what is owed and shown. -/
theorem LineFilter.owed_shown_iff (l : LineFilter) (n : Line) (cs : List Claim) (bit : Bool) :
    ((l.update = .none → cs = [] ∧ bit = l.settled) ∧
      (l.update = .waiting → cs = [.inputUpdate n l.settled] ∧ bit = (!l.settled)) ∧
      (l.update = .waitingHeld → cs = [.inputUpdate n (!l.settled)] ∧ bit = l.settled)) ↔
    cs = l.owed n ∧ bit = l.shown := by
  unfold LineFilter.owed LineFilter.shown
  cases l.update <;> simp

theorem inputsSound_iff (s : State) : InputsSound s ↔ (s.resetLow = false → s.inputsWith []) := by
  refine imp_congr_right fun _ => ⟨fun ⟨batches, writes, lines⟩ => ?_, fun h => ⟨h.batches, ?_, fun n => ?_⟩⟩
  · have line n := (LineFilter.owed_shown_iff (s.line n) n (s.lineClaims n) (s.image.inputBit n)).mp (lines n).2.2
    refine ⟨batches, fun c hc => ?_, fun n => ⟨(lines n).1, (lines n).2.1⟩, fun n => ?_, fun n => (line n).2⟩
    · obtain ⟨batch, hb, hc⟩ := List.mem_flatten.mp (by simpa using hc)
      exact writes batch hb c hc
    · simpa using (line n).1
  · exact fun batch hb c hc => h.writes c (by simpa using ⟨batch, hb, hc⟩)
  · exact ⟨(h.measured n).1, (h.measured n).2,
      (LineFilter.owed_shown_iff ..).mpr ⟨by simpa using h.owed n, h.shown n⟩⟩

/-! ### Changes beside the lines -/

/-- What the lines stand by: their filters, the image and the waiting claims. -/
def State.inputSide (s : State) : Vector LineFilter 32 × Image × List (List Claim) := (s.lines, s.image, s.claims)

/-- Two images with the same filter times and the same IN bits. -/
def Image.SameInputs (im im' : Image) : Prop := ∀ n, im'.filterTime n = im.filterTime n ∧ im'.inputBit n = im.inputBit n

theorem Image.sameInputs_refl (im : Image) : im.SameInputs im := fun _ => ⟨rfl, rfl⟩

theorem Image.sameInputs_of_words {im im' : Image} (hl : im'.live = im.live)
    (hp : ∀ i, im'.word (.prm im.live) i = im.word (.prm im.live) i) (hi : ∀ i, im'.word .inp i = im.word .inp i) :
    im.SameInputs im' := fun n =>
  ⟨by simp only [Image.filterTime, Image.liveWord, hl, hp], by simp only [Image.inputBit, hi]⟩

/-- A commit that passes the checks is neither into the live bank nor, as no claim writes IN, into IN (R4, R9). -/
theorem Image.sameInputs_commitWords (im : Image) (op : WriteOp) {r : Region} (first count : Nat) (buffer : List Word)
    (hlive : r ≠ .prm im.live) (hinp : r ≠ .inp) : im.SameInputs (im.commitWords op r first count buffer).bumpGen :=
  Image.sameInputs_of_words (Image.live_commitWords ..)
    (fun _ => (Image.word_bumpGen ..).trans (Image.word_commitWords_outside _ _ _ _ _ _ _ _ (.inl hlive.symm)))
    fun _ => (Image.word_bumpGen ..).trans (Image.word_commitWords_outside _ _ _ _ _ _ _ _ (.inl hinp.symm))

/-- A COPY writes the edit bank alone (R55). -/
theorem Image.sameInputs_copyBank (im : Image) : im.SameInputs im.copyBank :=
  Image.sameInputs_of_words (Image.live_copyBank im)
    (fun _ => Image.word_copyBank_other _ _ fun e => Bank.other_ne im.live (Region.prm.inj e).symm)
    fun _ => Image.word_copyBank_other _ _ (by simp)

section
variable {s t : State} {hand : List Claim}

/-- A change of the image that leaves the filter times and the IN bits. -/
theorem State.inputsWith_image (h : s.inputsWith hand) (hl : t.lines = s.lines) (hc : t.claims = s.claims)
    (hi : s.image.SameInputs t.image) : t.inputsWith hand := by
  have line n : t.line n = s.line n := by simp only [State.line, hl]
  have claims n : t.lineClaims n = s.lineClaims n := by simp only [State.lineClaims, hc]
  refine ⟨by rw [hc]; exact h.batches, by rw [hc]; exact h.writes, fun n => ?_, fun n => ?_, fun n => ?_⟩
  · rw [line, (hi n).1]
    exact h.measured n
  · rw [line, claims]
    exact h.owed n
  · rw [line, (hi n).2]
    exact h.shown n

/-- A change beside the filters, the image and the claims. -/
theorem State.inputsWith_beside (h : s.inputsWith hand) (side : t.inputSide = s.inputSide) : t.inputsWith hand := by
  obtain ⟨lines, image, claims⟩ := by simpa only [State.inputSide, Prod.mk.injEq] using side
  exact State.inputsWith_image h lines claims (image ▸ Image.sameInputs_refl _)

/-! ### Claims handed over and taken -/

theorem lineClaims_handOver (s : State) (cs : List Claim) (n : Line) :
    (s.handOver cs).lineClaims n = s.lineClaims n ++ cs.filter (Claim.isInputOf n) := by
  unfold State.lineClaims
  rw [claims_handOver]
  split
  · next h => simp [List.isEmpty_iff.mp h]
  · simp

/-- The claims in hand are handed over. -/
theorem State.inputsWith_handOver (h : s.inputsWith hand) : (s.handOver hand).inputsWith [] := by
  refine ⟨handOver_ne_nil hand h.batches, fun c hc => ?_, fun n => ?_, fun n => ?_, fun n => ?_⟩
  · rw [claims_handOver] at hc
    refine h.writes c ?_
    split at hc
    · exact List.mem_append_left _ (by simpa using hc)
    · simpa using hc
  · rw [line_handOver, image_handOver]
    exact h.measured n
  · rw [line_handOver, lineClaims_handOver, List.filter_nil, List.append_nil]
    exact h.owed n
  · rw [line_handOver, image_handOver]
    exact h.shown n

/-- A port makes a claim, which is no line's. -/
theorem State.inputsWith_ofPort {c : Claim} (h : s.inputsWith []) (hp : c.port ≠ none) (hw : c.writesInputs = false) :
    s.inputsWith [c] := by
  refine ⟨h.batches, fun x hx => ?_, h.measured, fun n => ?_, h.shown⟩
  · rcases List.mem_append.mp hx with hx | hx
    · exact h.writes x (by simpa using hx)
    · rw [List.mem_singleton.mp hx]
      exact hw
  · rw [List.filter_singleton, Claim.isInputOf_of_port hp]
    exact h.owed n

/-- The claims of a line, with one that stands among the oldest shown in its place. -/
theorem lineClaims_oldest {c : Claim} {before after : List Claim} {later : List (List Claim)}
    (ho : Oldest s c before after later) (n : Line) :
    s.lineClaims n = before.filter (Claim.isInputOf n) ++
      ([c].filter (Claim.isInputOf n) ++ (after ++ later.flatten).filter (Claim.isInputOf n)) := by
  have all : s.claims.flatten = before ++ ([c] ++ (after ++ later.flatten)) := by rw [show s.claims = _ from ho]; simp
  simp only [State.lineClaims, all, List.filter_append]

/-- The claims of a line once the arbiter has taken one. -/
theorem lineClaims_left {before after : List Claim} {later : List (List Claim)}
    (hc : t.claims = claimsLeft before after later) (n : Line) :
    t.lineClaims n = before.filter (Claim.isInputOf n) ++ (after ++ later.flatten).filter (Claim.isInputOf n) := by
  simp only [State.lineClaims, hc, flatten_claimsLeft, List.append_assoc, List.filter_append]

/-- What is left once a claim is taken has no empty batch and no claim that writes IN. -/
theorem State.inputsWith_left {c : Claim} {before after : List Claim} {later : List (List Claim)} (h : s.inputsWith [])
    (ho : Oldest s c before after later) :
    (∀ batch ∈ claimsLeft before after later, batch ≠ []) ∧
      ∀ x ∈ (claimsLeft before after later).flatten, x.writesInputs = false := by
  refine ⟨claimsLeft_ne_nil fun batch hb => h.batches batch (by rw [show s.claims = _ from ho]; exact .tail _ hb),
    fun x hx => h.writes x ?_⟩
  rw [flatten_claimsLeft] at hx
  rw [show s.claims = _ from ho]
  simp only [List.mem_append, List.mem_flatten, List.flatten_cons, List.mem_cons, List.append_nil] at hx ⊢
  tauto

/-- The arbiter takes a port's claim. -/
theorem State.inputsWith_takeClaim {f : Claim → Bool} {c : Claim} {rest : List (List Claim)} (h : s.inputsWith [])
    (ht : takeClaim f s.claims = some (c, rest)) (hp : c.port ≠ none) : { s with claims := rest }.inputsWith [] := by
  obtain ⟨-, before, after, later, ho, -, rfl⟩ := takeClaim_some ht
  obtain ⟨batches, writes⟩ := State.inputsWith_left h ho
  refine ⟨batches, by simpa using writes, h.measured, fun n => ?_, h.shown⟩
  have owed := h.owed n
  rw [lineClaims_oldest ho, List.filter_singleton, Claim.isInputOf_of_port hp] at owed
  rw [lineClaims_left rfl]
  exact owed

/-- A port reset withdraws a snapshot claim, which is no line's (R19). -/
theorem State.inputsWith_withdrawSnapshot (p : Port) (h : s.inputsWith []) : (s.withdrawSnapshot p).inputsWith [] := by
  have left : (s.withdrawSnapshot p).claims.flatten = s.claims.flatten.filter fun c => !c.isSnapshotOf p :=
    flatten_withdrawSnapshot s p
  refine ⟨by simp [State.withdrawSnapshot], fun c hc => ?_, h.measured, fun n => ?_, h.shown⟩
  · rw [left, List.append_nil] at hc
    exact h.writes c (by simpa using (List.mem_filter.mp hc).1)
  · have kept : (s.withdrawSnapshot p).lineClaims n = s.lineClaims n := by
      rw [State.lineClaims, left, List.filter_filter]
      refine List.filter_congr fun c _ => ?_
      cases hn : c.isInputOf n with
      | false => rfl
      | true =>
        obtain ⟨level, rfl⟩ := Claim.ofLine_of_isInputOf hn
        rfl
    rw [kept]
    exact h.owed n

/-! ### Moves of the lines -/

/-- Every line moves, and hands over its share of the claims in hand. -/
theorem State.inputsWith_moves {r : Line → LineFilter × List Claim} (h : s.inputsWith []) (hc : t.claims = s.claims)
    (hb : ∀ n, t.image.inputBit n = s.image.inputBit n) (hl : ∀ n, t.line n = (r n).1)
    (hr : ∀ n, (s.line n).Moves n (t.image.filterTime n) (r n)) (hh : ∀ n, hand.filter (Claim.isInputOf n) = (r n).2)
    (hw : ∀ c ∈ hand, ∃ n, c ∈ (r n).2) : t.inputsWith hand := by
  refine ⟨by rw [hc]; exact h.batches, fun c hcs => ?_, fun n => ?_, fun n => ?_, fun n => ?_⟩
  · rcases List.mem_append.mp hcs with hcs | hcs
    · exact h.writes c (by rw [← hc]; simpa using hcs)
    · obtain ⟨n, hn⟩ := hw c hcs
      exact Claim.writesInputs_of_ofLine ((hr n).ofLine c hn)
  · rw [hl]
    exact (hr n).measured
  · have owed : s.lineClaims n = (s.line n).owed n := by simpa using h.owed n
    rw [hl, hh, (hr n).owed, ← owed, State.lineClaims, hc]
    rfl
  · rw [hl, hb, (hr n).shown]
    exact h.shown n

/-- One line moves. -/
theorem State.inputsWith_applyLine {n : Line} {r : LineFilter × List Claim} (h : s.inputsWith [])
    (hr : (s.line n).Moves n (s.image.filterTime n) r) : (s.applyLine n r).inputsWith [] := by
  refine State.inputsWith_handOver
    (State.inputsWith_moves (r := fun k => if k = n then r else (s.line k, [])) h rfl (fun _ => rfl) (fun k => ?_)
      (fun k => ?_) (fun k => ?_) fun c hc => ⟨n, by simpa using hc⟩)
  · split
    · next hk => rw [hk, line_setLine_same]
    · next hk => exact line_setLine_other _ _ _ _ hk
  · split
    · next hk =>
      subst hk
      exact hr
    · exact LineFilter.moves_silent (h.measured k) rfl rfl
  · rw [filter_isInputOf hr.ofLine]
    split <;> rfl

theorem State.inputsWith_tick (hlow : s.resetLow = false) (h : s.inputsWith []) : s.tick.inputsWith [] := by
  have image : s.tick.image = s.image := by rw [State.tick_eq hlow]
  refine State.inputsWith_moves (r := fun n => ((s.line n).tick (s.image.filterTime n), [])) h
    (by rw [State.tick_eq hlow]) (fun n => by rw [image]) (line_tick hlow) (fun n => ?_) (fun _ => rfl) nofun
  rw [image]
  exact LineFilter.moves_tick (h.measured n)

/-- A performed SWAP gives every line its new filter time; the IN bits stay (R139). -/
theorem State.inputsWith_performSwap (h : s.inputsWith []) : s.performSwap.inputsWith [] := by
  have moves n : (s.line n).Moves n (s.image.swapBanks.filterTime n)
      ((s.line n).newFilterTime n (s.image.filterTime n) (s.image.swapBanks.filterTime n)) :=
    LineFilter.moves_newFilterTime _ (h.measured n)
  have bit n : s.image.swapBanks.inputBit n = s.image.inputBit n := by
    rw [Image.inputBit, Image.word_swapBanks]
    rfl
  have moved : { s with image := s.image.swapBanks, lines := s.swapField.lines }.inputsWith s.swapClaims := by
    refine State.inputsWith_moves h rfl bit (line_swapField s) moves (filter_flatMap_isInputOf fun n => (moves n).ofLine) ?_
    intro c hc
    obtain ⟨n, -, hn⟩ := List.mem_flatMap.mp hc
    exact ⟨n, hn⟩
  refine State.inputsWith_beside (State.inputsWith_handOver moved) ?_
  rw [State.inputSide, State.inputSide, image_performSwap, State.performSwap_eq, claims_swapField, lines_handOver,
    image_handOver, claims_handOver]
  simp only [List.isEmpty_iff]
  split <;> simp

/-- An input update that is taken: the line's IN bit takes the claim's level, and what is then owed is handed over (R20,
R137). -/
theorem State.inputsWith_inputUpdate {n m : Line} {level : Bool} {rest : List (List Claim)} (h : s.inputsWith [])
    (ht : takeClaim (Claim.isInputOf n) s.claims = some (.inputUpdate m level, rest)) :
    ({ s with claims := rest, image := s.image.setInput n level }.applyLine n ((s.line n).updateTaken n)).inputsWith
      [] := by
  obtain ⟨hm, before, after, later, ho, hbefore, rfl⟩ := takeClaim_some ht
  obtain rfl : m = n := by simpa [Claim.isInputOf] using hm
  obtain ⟨batches, writes⟩ := State.inputsWith_left h ho
  have none : before.filter (Claim.isInputOf m) = [] := List.filter_eq_nil_iff.mpr fun c hc => by simp [hbefore c hc]
  have owed : (s.line m).owed m =
      .inputUpdate m level :: (after ++ later.flatten).filter (Claim.isInputOf m) := by
    rw [← h.owed m, lineClaims_oldest ho, none]
    simp [Claim.isInputOf]
  obtain ⟨left, shown⟩ := LineFilter.owed_updateTaken owed
  have ofLine : ∀ c ∈ ((s.line m).updateTaken m).2, c.ofLine m := fun c hc =>
    LineFilter.ofLine_owed _ m c (by rw [left]; exact List.mem_append_right _ hc)
  have time k : (s.image.setInput m level).filterTime k = s.image.filterTime k := by
    rw [Image.filterTime, Image.liveWord, live_setInput, Image.word_setInput _ _ _ _ (by simp)]
    rfl
  refine State.inputsWith_handOver ⟨batches, fun c hc => ?_, fun k => ?_, fun k => ?_, fun k => ?_⟩
  · rcases List.mem_append.mp hc with hc | hc
    · exact writes c hc
    · exact Claim.writesInputs_of_ofLine (ofLine c hc)
  · refine (congrArg _ (time k)).mpr ?_
    by_cases hk : k = m
    · subst hk
      rw [line_setLine_same]
      exact LineFilter.measured_updateTaken (h.measured k)
    · rw [line_setLine_other _ _ _ _ hk]
      exact h.measured k
  · rw [lineClaims_left rfl, filter_isInputOf ofLine]
    by_cases hk : k = m
    · subst hk
      rw [line_setLine_same, if_pos rfl, none, left]
      rfl
    · have owed := h.owed k
      rw [lineClaims_oldest ho, List.filter_singleton] at owed
      rw [line_setLine_other _ _ _ _ hk, if_neg hk]
      change _ = (s.line k).owed k
      simpa [Claim.isInputOf, Ne.symm hk] using owed
  · refine (Image.inputBit_setInput s.image m k level).trans ?_
    split
    · next hk =>
      subst hk
      rw [line_setLine_same, shown]
    · next hk =>
      rw [line_setLine_other _ _ _ _ hk]
      exact h.shown k

end

end Sys2Proof.Machine
end

section
/-! PROOFS. Every step keeps the input lines in step with their claims and IN bits (R133 to R137): the claims that frames
hand over, then each command, then what time does. -/

namespace Sys2Proof.Machine

/-! ### The claims of a frame -/

/-- What a frame does to the waiting claims: nothing, or its port hands one over, which does not write IN (R4, R7). -/
inductive ClaimHanded (cs cs' : List (List Claim)) : Prop where
  | stays (h : cs' = cs)
  | handed {c : Claim} (h : cs' = cs ++ [[c]]) (hp : c.port ≠ none) (hw : c.writesInputs = false)

/-- The region of a commit is never IN (R4). -/
theorem Transfer.region_ne_inp (t : Transfer) (edit : Bank) : t.region edit ≠ .inp := by
  unfold Transfer.region
  split <;> simp

theorem claimHanded_performTransfer (s : State) (p : Port) (request : List Byte) (op : TransferOp)
    (areaCode flags : Byte) (first count : Nat) :
    ClaimHanded s.claims (s.performTransfer p request op areaCode flags first count).claims := by
  unfold State.performTransfer
  split
  · exact .stays rfl
  · split
    · exact .stays rfl
    · dsimp only
      split
      · exact .handed rfl (Option.some_ne_none p) rfl
      · exact .stays rfl

theorem claims_performHold (s : State) (p : Port) (request : List Byte) (areaCode : Byte) (first count : Nat)
    (lease : Word) : (s.performHold p request areaCode first count lease).claims = s.claims := by
  unfold State.performHold
  split
  · rfl
  · split
    · rfl
    · simp

theorem claims_performRelease (s : State) (p : Port) (request : List Byte) (id : Byte) :
    (s.performRelease p request id).claims = s.claims := by
  unfold State.performRelease
  split
  · rfl
  · split <;> rfl

theorem claims_performRenew (s : State) (p : Port) (request : List Byte) (id : Byte) (lease : Word) :
    (s.performRenew p request id lease).claims = s.claims := by
  unfold State.performRenew
  split
  · rfl
  · split
    · rfl
    · split <;> rfl

theorem claimHanded_perform (s : State) (p : Port) (request : List Byte) (r : Request) :
    ClaimHanded s.claims (s.perform p request r).claims := by
  cases r with
  | read => exact claimHanded_performTransfer ..
  | write => exact claimHanded_performTransfer ..
  | mwrite => exact claimHanded_performTransfer ..
  | hold => exact .stays (claims_performHold ..)
  | release => exact .stays (claims_performRelease ..)
  | renew => exact .stays (claims_performRenew ..)
  | subscribe => exact .stays rfl
  | unsubscribe => exact .stays rfl
  | swap => exact .handed rfl (Option.some_ne_none p) rfl
  | copy => exact .handed rfl (Option.some_ne_none p) rfl
  | ping => exact .stays rfl

theorem claimHanded_judgeRequest (s : State) (p : Port) (request : List Byte) :
    ClaimHanded s.claims (s.judgeRequest p request).claims := by
  unfold State.judgeRequest
  split
  · exact .stays rfl
  · split
    · exact .stays rfl
    · split
      · exact .stays rfl
      · exact claimHanded_perform ..

theorem claimHanded_takeReq (s : State) (p : Port) (request : List Byte) :
    ClaimHanded s.claims (s.takeReq p request).claims := by
  unfold State.takeReq
  split
  · exact .stays rfl
  · split
    · exact claimHanded_judgeRequest (s.modPort p PortState.suspendNotice) p request
    · split
      · exact .stays rfl
      · exact claimHanded_judgeRequest ..
    · exact .stays rfl

theorem claimHanded_receiveSegment (s : State) (p : Port) (t : Transfer) (seq : Byte) (data : List Byte) :
    ClaimHanded s.claims (s.receiveSegment p t seq data).claims := by
  unfold State.receiveSegment State.storeSegment
  dsimp only
  split
  · split
    · exact .stays rfl
    · exact .handed rfl (Option.some_ne_none p) (decide_eq_false (Transfer.region_ne_inp _ _))
  · split <;> exact .stays rfl

theorem claimHanded_takeDat (s : State) (p : Port) (payload : List Byte) :
    ClaimHanded s.claims (s.takeDat p payload).claims := by
  unfold State.takeDat
  split
  · dsimp only
    split
    · exact .stays rfl
    · exact .stays rfl
    · split
      · exact claimHanded_receiveSegment ..
      · exact .stays rfl
    · exact .stays rfl
  · exact .stays rfl

theorem claimHanded_takeFrame (s : State) (p : Port) (kind : MasterKind) (payload : List Byte) :
    ClaimHanded s.claims (s.takeFrame p kind payload).claims := by
  cases kind with
  | req => exact claimHanded_takeReq ..
  | dat => exact claimHanded_takeDat ..
  | ack => exact .stays rfl
  | nak => exact .stays rfl
  | abt => exact .stays rfl
  | nta => exact .stays rfl

/-- Delivery, which judges after the frame, hands nothing over. -/
theorem claimHanded_arrive (s : State) (p : Port) (kind : MasterKind) (payload : List Byte) :
    ClaimHanded s.claims (s.arrive p kind payload).claims :=
  claimHanded_takeFrame (s.modPort p fun ps => ps.modNotice fun ns => { ns with paused := false }) p kind payload

/-! ### Operations beside the lines -/

section
variable {s : State}

theorem State.inputsWith_arrive (p : Port) (kind : MasterKind) (payload : List Byte) (h : s.inputsWith []) :
    (s.arrive p kind payload).inputsWith [] := by
  have lines : (s.arrive p kind payload).lines = s.lines := by
    rw [eq_of_beyondFrames (frameEffect_arrive s p kind payload).beyond]
  have image : (s.arrive p kind payload).image = s.image := image_arrive s p kind payload
  cases claimHanded_arrive s p kind payload with
  | stays claims => exact State.inputsWith_beside h (by rw [State.inputSide, lines, image, claims]; rfl)
  | handed claims hp hw =>
    refine State.inputsWith_beside (State.inputsWith_handOver (State.inputsWith_ofPort h hp hw)) ?_
    rw [State.inputSide, State.inputSide, lines, image, claims, lines_handOver, image_handOver, claims_handOver]
    rfl

theorem State.inputsWith_whenReleased {f : State → State} (h : s.inputsWith []) (hf : (f s).inputsWith []) :
    (s.whenReleased f).inputsWith [] :=
  State.of_whenReleased (motive := fun t => t.inputsWith []) h fun _ => hf

theorem State.inputsWith_frameRow (p : Port) (kind : MasterKind) (payload : List Byte) (h : s.inputsWith []) :
    (s.frameRow p kind payload).inputsWith [] :=
  State.inputsWith_whenReleased h <| by
    split
    · exact h
    · exact State.inputsWith_arrive _ _ _ h

theorem State.inputsWith_goodCharacter (p : Port) (data : Byte) (h : s.inputsWith []) :
    (s.goodCharacter p data).inputsWith [] := by
  have taken : (s.modPort p fun ps => ps.modRx fun rx =>
      rx.complete ((s.port p).rx.assembly.take data).1).inputsWith [] := State.inputsWith_beside h rfl
  unfold State.goodCharacter
  dsimp only
  split
  · exact taken
  · exact State.inputsWith_beside taken rfl
  · exact State.inputsWith_arrive _ _ _ taken

theorem State.inputsWith_enterFallback (g : Group) (h : s.inputsWith []) : (s.enterFallback g).inputsWith [] := by
  refine State.inputsWith_beside h ?_
  unfold State.enterFallback
  dsimp only
  split <;> rfl

theorem State.inputsWith_commitDone (p : Port) (outcome : FinOutcome) (gen : Gen) (detail : Byte)
    (h : s.inputsWith []) : (s.commitDone p outcome gen detail).inputsWith [] := by
  refine State.inputsWith_beside h ?_
  rw [(onlyPort_commitDone ..).1]
  rfl

theorem State.inputsWith_bankDone (p : Port) (code : ReplyCode) (detail : List Byte) (h : s.inputsWith []) :
    (s.bankDone p code detail).inputsWith [] := by
  refine State.inputsWith_beside h ?_
  rw [(onlyPort_bankDone ..).1]
  rfl

/-! ### The claims of ports taken -/

/-- A commit that passes the checks writes neither the live bank nor IN. -/
theorem State.inputsWith_takeCommit (p : Port) (op : WriteOp) {r : Region} (first count : Nat) (hr : r ≠ .inp)
    (h : s.inputsWith []) : (s.takeCommit p op r first count).inputsWith [] := by
  by_cases hok : commitCheck s.image s.holds p r first count = .ok
  · rw [State.takeCommit_ok hok]
    refine State.inputsWith_commitDone _ _ _ _ (State.inputsWith_image h ?_ ?_ ?_)
    · rw [State.applyCommit_eq]
    · rw [State.applyCommit_eq]
    · rw [image_applyCommit]
      exact Image.sameInputs_commitWords _ _ _ _ _ (region_of_commitCheck_ok hok) hr
  · obtain ⟨outcome, detail, refused⟩ := State.takeCommit_refused op hok
    rw [refused]
    exact State.inputsWith_commitDone _ _ _ _ h

theorem State.inputsWith_commit (p : Port) (h : s.inputsWith []) :
    ∃ t, exec (.commit p) s = .next t ∧ t.inputsWith [] := by
  refine ⟨_, rfl, State.inputsWith_whenReleased h ?_⟩
  split
  · next q op region first count rest ht =>
    have hr : region ≠ .inp := by
      obtain ⟨-, before, after, later, ho, -⟩ := takeClaim_some ht
      exact of_decide_eq_false (h.writes (.commit q op region first count) (by simp [ho]))
    exact State.inputsWith_takeCommit _ _ _ _ hr (State.inputsWith_takeClaim h ht (Option.some_ne_none q))
  · exact h

theorem State.inputsWith_snapshot (p : Port) (h : s.inputsWith []) :
    ∃ t, exec (.snapshot p) s = .next t ∧ t.inputsWith [] := by
  refine ⟨_, rfl, State.inputsWith_whenReleased h ?_⟩
  split
  · next q area edit first count rest ht =>
    exact State.inputsWith_beside (State.inputsWith_takeClaim h ht (Option.some_ne_none q)) rfl
  · exact h

theorem State.inputsWith_swapClaim (p : Port) (h : s.inputsWith []) :
    ∃ t, exec (.swapClaim p) s = .next t ∧ t.inputsWith [] := by
  refine ⟨_, rfl, State.inputsWith_whenReleased h ?_⟩
  split
  · next c rest ht =>
    obtain rfl := Claim.eq_of_isSwapOf (takeClaim_some ht).1
    have taken := State.inputsWith_takeClaim h ht (Option.some_ne_none p)
    dsimp only
    split
    · exact State.inputsWith_bankDone _ _ _ taken
    · split
      · exact State.inputsWith_bankDone _ _ _ taken
      · exact State.inputsWith_bankDone _ _ _ (State.inputsWith_performSwap taken)
  · exact h

theorem State.inputsWith_copyClaim (p : Port) (h : s.inputsWith []) :
    ∃ t, exec (.copyClaim p) s = .next t ∧ t.inputsWith [] := by
  refine ⟨_, rfl, State.inputsWith_whenReleased h ?_⟩
  split
  · next c rest ht =>
    obtain rfl := Claim.eq_of_isCopyOf (takeClaim_some ht).1
    have taken := State.inputsWith_takeClaim h ht (Option.some_ne_none p)
    dsimp only
    split
    · exact State.inputsWith_bankDone _ _ _ taken
    · exact State.inputsWith_bankDone _ _ _
        (State.inputsWith_image taken rfl rfl (Image.sameInputs_copyBank s.image))
  · exact h

/-- The report of an input update reaches the ports alone. -/
theorem State.inputsWith_execInputUpdate (n : Line) (h : s.inputsWith []) :
    ∃ t, exec (.inputUpdate n) s = .next t ∧ t.inputsWith [] := by
  refine ⟨_, rfl, State.inputsWith_whenReleased h ?_⟩
  split
  · next m level rest ht =>
    refine State.inputsWith_beside (State.inputsWith_inputUpdate h ht) ?_
    simp only [State.inputSide, State.applyLine, lines_handOver, image_handOver, claims_handOver]
    rfl
  · exact h

end

/-! ### The commands -/

/-- At the release a line measures just if its level is high, and no default filter time is 0 (R42, R140). -/
theorem State.inputsWith_released (s : State) (rate : BitVec 3) (par : Bool) : (s.released rate par).inputsWith [] := by
  have times : ∀ n : Line, 1 ≤ (prmDefault n.val).toNat := by decide
  have low n : (s.released rate par).image.inputBit n = false := by
    rw [Image.inputBit, word_released]
    exact BitVec.getLsbD_zero
  refine ⟨nofun, nofun, fun n => ?_, fun n => ?_, fun n => ?_⟩
  · have time : (s.released rate par).image.filterTime n = (prmDefault n.val).toNat :=
      congrArg BitVec.toNat (word_released s rate par (.prm .bank0) n.val)
    rw [line_released, time]
    cases (s.line n).level with
    | false => exact ⟨fun _ => rfl, nofun⟩
    | true =>
      refine ⟨nofun, fun m hm => ?_⟩
      cases hm
      exact ⟨rfl, rfl, times n, Nat.zero_le _⟩
  · rw [line_released]
    rfl
  · rw [line_released, low]
    rfl

/-- While RESET_N is high every command but its fall keeps the lines in step. -/
theorem State.inputsWith_exec {s : State} (c : Instr) (hlow : s.resetLow = false) (h : s.inputsWith [])
    (ha : c ≠ .resetNAssert) : ∃ t, exec c s = .next t ∧ t.inputsWith [] := by
  have beside {t : State} (side : t.inputSide = s.inputSide) : t.inputsWith [] := State.inputsWith_beside h side
  have released {f : State → State} : (f s).inputsWith [] → (s.whenReleased f).inputsWith [] :=
    State.inputsWith_whenReleased h
  cases hframe : frameOf c with
  | some frame => exact ⟨_, exec_of_frameOf hframe s, State.inputsWith_frameRow _ _ _ h⟩
  | none =>
    cases c with
    | resetNAssert => exact absurd rfl ha
    | resetNRelease rate par =>
      exact ⟨_, exec_resetNRelease s rate par, State.inputsWith_released s rate par⟩
    | characterReceived p data parityBit stopBit =>
      refine ⟨_, rfl, ?_⟩
      split
      · exact beside rfl
      · split
        · exact h
        · split
          · exact State.inputsWith_goodCharacter _ _ h
          · exact beside rfl
          · exact beside rfl
    | framingError p =>
      refine ⟨_, rfl, ?_⟩
      split <;> exact beside rfl
    | gapLimitExpiry p => exact ⟨_, rfl, released (beside rfl)⟩
    | breakDetected p =>
      refine ⟨_, rfl, released ?_⟩
      split
      · exact h
      · have reset : (s.modPort p PortState.portReset).inputsWith [] := beside rfl
        exact State.inputsWith_beside (State.inputsWith_withdrawSnapshot p reset) rfl
    | breakEnd p =>
      refine ⟨_, rfl, ?_⟩
      split
      · exact beside rfl
      · split <;> exact beside rfl
    | frameSent p =>
      refine ⟨_, rfl, released ?_⟩
      dsimp only
      split <;> exact beside rfl
    | tSegExpiry p => exact ⟨_, rfl, released (beside rfl)⟩
    | tAckExpiry p => exact ⟨_, rfl, released (beside rfl)⟩
    | tNtcExpiry p => exact ⟨_, rfl, released (beside rfl)⟩
    | leaseExpiry id =>
      refine ⟨_, rfl, released ?_⟩
      split <;> exact beside rfl
    | refreshTimerExpiry g =>
      refine ⟨_, rfl, released ?_⟩
      split
      · exact State.inputsWith_enterFallback g h
      · exact h
    | inputTransition n level =>
      exact ⟨_, exec_inputTransition hlow, State.inputsWith_applyLine h (LineFilter.moves_transition _ (h.measured n))⟩
    | measurementExpiry n =>
      refine ⟨_, rfl, released ?_⟩
      split
      · next m hm =>
        obtain ⟨candidate, away, -, -⟩ := (h.measured n).2 m (Option.filter_eq_some_iff.mp hm).1
        exact State.inputsWith_applyLine h (LineFilter.moves_settle _ (away.trans candidate.symm) candidate)
      · exact h
    | commit p => exact State.inputsWith_commit p h
    | snapshot p => exact State.inputsWith_snapshot p h
    | inputUpdate n => exact State.inputsWith_execInputUpdate n h
    | swapClaim p => exact State.inputsWith_swapClaim p h
    | copyClaim p => exact State.inputsWith_copyClaim p h
    | startBit p =>
      refine ⟨_, rfl, ?_⟩
      split <;> exact beside rfl
    | _ => simp [frameOf] at hframe

/-- While RESET_N is low nothing is asked of the lines, and only its release ends that, which sets them anew. -/
theorem inputsSound_of_exec_low {c : Instr} {s t : State} (hlow : s.resetLow = true) (ha : c ≠ .resetNAssert)
    (he : exec c s = .next t) : InputsSound t := by
  rw [inputsSound_iff]
  by_cases hr : ∃ rate par, c = .resetNRelease rate par
  · obtain ⟨rate, par, rfl⟩ := hr
    obtain rfl := Host.Outcome.next.inj he
    exact fun _ => State.inputsWith_released s rate par
  · have low : t.resetLow = true := by
      rcases exec_low c s hlow ha fun rate par hc => hr ⟨rate, par, hc⟩ with h | ⟨_, _, h⟩ | ⟨_, _, h⟩
      all_goals
        obtain rfl := Host.Outcome.next.inj (he.symm.trans h)
        exact hlow
    exact fun high => by cases low.symm.trans high

theorem inputsSound_of_exec {c : Instr} {s t : State} (hs : InputsSound s) (he : exec c s = .next t) : InputsSound t := by
  by_cases ha : c = .resetNAssert
  · subst ha
    obtain rfl := Host.Outcome.next.inj he
    exact nofun
  · cases hlow : s.resetLow with
    | true => exact inputsSound_of_exec_low hlow ha he
    | false =>
      obtain ⟨t', he', kept⟩ := State.inputsWith_exec c hlow ((inputsSound_iff s).mp hs hlow) ha
      obtain rfl := Host.Outcome.next.inj (he.symm.trans he')
      exact (inputsSound_iff t).mpr fun _ => kept

theorem inputsSound_tick {s : State} (hs : InputsSound s) : InputsSound s.tick := by
  cases hlow : s.resetLow with
  | true =>
    rw [State.tick, State.whenReleased_low hlow]
    exact hs
  | false => exact (inputsSound_iff _).mpr fun _ => State.inputsWith_tick hlow ((inputsSound_iff s).mp hs hlow)

/-- Settles O59: a step is a command, the beginning of frames, or a millisecond, and each keeps the lines in step. -/
theorem stepKeepsInputsSound : Obligations.StepKeepsInputsSound := by
  intro s t hs hstep
  unfold step at hstep
  split at hstep
  · next c rest _ => exact inputsSound_of_exec (s := { s with pending := rest }) hs hstep
  · split at hstep
    · cases hstep
      exact hs
    · split at hstep
      · exact inputsSound_of_exec hs hstep
      · cases hstep
        exact inputsSound_tick hs

end Sys2Proof.Machine
end

section
/-! PROOFS. The output groups and their lines: the fall into FALLBACK (R144, R148), and the refresh by a commit in OUT
(R145 to R147). -/

namespace Sys2Proof.Machine

/-! ### REFRESH_TIMER_EXPIRY -/

/-- An owner word names the port with its number, and no port from 4 on (R43). -/
theorem ownerPort_eq_some {owner : Word} {q : Port} : ownerPort owner = some q ↔ q.val = owner.toNat := by
  unfold ownerPort
  split
  · rw [Option.some.injEq, Fin.ext_iff]
    exact eq_comm
  · next h => exact ⟨nofun, fun hq => absurd (hq ▸ q.isLt) h⟩

/-- The field side of a group's fall into FALLBACK: its record and the lines, the report to its owner left out (R148). -/
def State.fallen (s : State) (g : Group) : State :=
  (s.setGroup g { s.group g with mode := .fallback, timer := none }).driveLines

section
variable (s : State) (g : Group)

theorem State.enterFallback_owned {q : Port} (h : q.val = (s.group g).owner.toNat) :
    s.enterFallback g = (s.fallen g).reportItem q (fallbackItem g s.image.gen) := by
  simp only [State.enterFallback, ownerPort_eq_some.mpr h, image_driveLines, image_setGroup]
  rfl

theorem State.enterFallback_unowned (h : ∀ q : Port, q.val ≠ (s.group g).owner.toNat) :
    s.enterFallback g = s.fallen g := by
  have nobody : ownerPort (s.group g).owner = none :=
    Option.eq_none_iff_forall_ne_some.mpr fun q hq => h q (ownerPort_eq_some.mp hq)
  simp only [State.enterFallback, nobody]
  rfl

/-- All that a fall into FALLBACK changes. -/
theorem State.enterFallback_eq :
    s.enterFallback g = { s.fallen g with ports := (s.enterFallback g).ports } := by
  by_cases h : ∃ q : Port, q.val = (s.group g).owner.toNat
  · obtain ⟨q, hq⟩ := h
    rw [State.enterFallback_owned s g hq]
    rfl
  · rw [State.enterFallback_unowned s g fun q hq => h ⟨q, hq⟩]

theorem State.fallen_eq :
    s.fallen g = { s with groups := (s.fallen g).groups, driven := (s.fallen g).driven } := rfl

theorem group_fallen_same : (s.fallen g).group g = { s.group g with mode := .fallback, timer := none } := by
  rw [State.fallen, group_driveLines, group_setGroup_same]

theorem group_fallen_other {k : Group} (h : k ≠ g) : (s.fallen g).group k = s.group k := by
  rw [State.fallen, group_driveLines, group_setGroup_other _ _ _ _ h]

/-- The lines show what R141 says of the groups after the fall. -/
theorem driven_fallen (n : Fin 32) : (s.fallen g).driven.get n = (s.fallen g).lineLevel n := by
  rw [State.fallen, driven_driveLines, lineLevel_driveLines]

/-- The fall of a group moves no line of another group. -/
theorem lineLevel_fallen_other {n : Line} (h : groupOfLine n ≠ g) : (s.fallen g).lineLevel n = s.lineLevel n := by
  rw [State.lineLevel, group_fallen_other s g h]
  rfl

/-- The group's own lines show its live fallback bits. -/
theorem lineLevel_fallen_same {n : Line} (h : groupOfLine n = g) :
    (s.fallen g).lineLevel n = (s.image.liveWord (48 + n.val / 16)).getLsbD (n.val % 16) := by
  rw [State.lineLevel, h, group_fallen_same, if_pos rfl]
  rfl

/-- A port that does not own the group is told nothing (R148). -/
theorem port_enterFallback_other {q : Port} (h : q.val ≠ (s.group g).owner.toNat) :
    (s.enterFallback g).port q = s.port q := by
  by_cases ho : ∃ p : Port, p.val = (s.group g).owner.toNat
  · obtain ⟨p, hp⟩ := ho
    rw [State.enterFallback_owned s g hp, State.reportItem, port_modPort_other _ _ _ _ fun e => h (by rw [e, hp])]
    rfl
  · rw [State.enterFallback_unowned s g fun p hp => ho ⟨p, hp⟩]
    rfl

/-- The owner is told of the fall, with cause 12 (R116, R148). -/
theorem port_enterFallback_owner {q : Port} (h : q.val = (s.group g).owner.toNat) :
    (s.enterFallback g).port q = (s.port q).notify (s.enabled q) [fallbackItem g s.image.gen] := by
  rw [State.enterFallback_owned s g h, State.reportItem, port_modPort_same]
  rfl

end

theorem exec_refreshTimerExpiry_due {s : State} {g : Group} (hlow : s.resetLow = false)
    (hd : Due s (.refreshTimerExpiry g)) : exec (.refreshTimerExpiry g) s = .next (s.enterFallback g) := by
  rw [exec, execRefreshTimerExpiry, State.whenReleased_high hlow, if_pos ((refreshDue_iff s g).mpr hd)]

/-- Settles O40: the field side of the fall, then the ports. -/
theorem refreshExpiryFallsBack : Obligations.RefreshExpiryFallsBack := by
  intro g s hlow harmed htimer hsound
  have driven n : (s.enterFallback g).driven.get n = (s.fallen g).lineLevel n := by
    rw [State.enterFallback_eq]
    exact driven_fallen s g n
  have group k : (s.enterFallback g).group k = (s.fallen g).group k := by
    rw [State.enterFallback_eq]
    rfl
  refine ⟨_, exec_refreshTimerExpiry_due hlow ⟨harmed, htimer⟩, ?_, ?_, fun k hk => ?_, fun n hn => ?_, fun n hn => ?_,
    fun q hq => port_enterFallback_other s g hq, fun q hq => ?_⟩
  · rw [State.enterFallback_eq, State.fallen_eq]
  · rw [group, group_fallen_same]
  · rw [group, group_fallen_other s g hk]
  · have word : n.val / 16 = g.val / 4 := by omega
    rw [driven, lineLevel_fallen_same s g (Fin.ext hn), word]
  · rw [driven, lineLevel_fallen_other s g fun e => hn (Fin.ext_iff.mp e)]
    exact ((hsound hlow).1 n).symm
  · rw [port_enterFallback_owner s g hq]
    exact PortState.told_notify_notChange _ _ (by simp [fallbackItem]) rfl

/-! ### The bits that a commit writes -/

/-- The bits of a group in its words (R141). -/
theorem getLsbD_groupMask (g : Group) (i : Nat) :
    (groupMask g).getLsbD i = decide (4 * (g.val % 4) ≤ i ∧ i < 4 * (g.val % 4) + 4) := by
  by_cases hi : i < 16
  · revert g i
    decide
  · rw [BitVec.getLsbD_of_ge _ _ (by omega)]
    exact (decide_eq_false (by omega)).symm

/-- A word has a bit of a group set. -/
theorem and_groupMask_ne_zero {w : Word} {g : Group} :
    w &&& groupMask g ≠ 0 ↔ ∃ k < 4, w.getLsbD (4 * (g.val % 4) + k) = true := by
  constructor
  · intro hne
    refine Classical.byContradiction fun nobit => hne (BitVec.eq_of_getLsbD_eq fun i _ => ?_)
    change _ = (0#16).getLsbD i
    rw [BitVec.getLsbD_and, getLsbD_groupMask, BitVec.getLsbD_zero, Bool.and_eq_false_iff, decide_eq_false_iff_not]
    refine Classical.or_iff_not_imp_right.mpr fun inside => ?_
    rw [not_not] at inside
    have clear := fun hw => nobit ⟨i - 4 * (g.val % 4), by omega, hw⟩
    rw [Nat.add_sub_cancel' inside.1] at clear
    exact Bool.eq_false_iff.mpr clear
  · rintro ⟨k, hk, hw⟩ zero
    have bit := congrArg (BitVec.getLsbD · (4 * (g.val % 4) + k)) zero
    simp [getLsbD_groupMask, hw, hk] at bit

/-- The bits of an OUT word that a commit writes: within its range all for a WRITE, those of the masks for an MWRITE
(R14). -/
theorem getLsbD_writtenBits (op : WriteOp) (first count : Nat) (buffer : List Word) (w : Nat) {i : Nat} (hi : i < 16) :
    (writtenBits op first count buffer w).getLsbD i = true ↔
      (first ≤ w ∧ w < first + count) ∧
        (op = .write ∨ ((buffer.getD (2 * (w - first)) 0).getLsbD i ||
          (buffer.getD (2 * (w - first) + 1) 0).getLsbD i) = true) := by
  rw [writtenBits.eq_def]
  split
  · next inside =>
    cases op with
    | write =>
      have ones : ∀ i < 16, (0xFFFF : Word).getLsbD i = true := by decide
      exact iff_of_true (ones i hi) ⟨inside, .inl rfl⟩
    | mwrite => simp [inside, slotWord]
  · next outside => exact iff_of_false (by simp) fun h => outside h.1

/-- A commit in OUT refreshes a supervised group of its port when it writes one of the group's bits (R145). -/
theorem GroupState.refreshedBy_iff {x : GroupState} {p : Port} {g : Group} {op : WriteOp} {first count : Nat}
    {buffer : List Word} :
    x.refreshedBy p g (writtenBits op first count buffer (g.val / 4)) = true ↔
      x.mode ≠ .unsupervised ∧ x.owner.toNat = p.val ∧ first ≤ g.val / 4 ∧ g.val / 4 < first + count ∧
        (op = .write ∨ ∃ k < 4,
          ((buffer.getD (2 * (g.val / 4 - first)) 0).getLsbD (4 * (g.val % 4) + k) ||
            (buffer.getD (2 * (g.val / 4 - first) + 1) 0).getLsbD (4 * (g.val % 4) + k)) = true) := by
  have bit k (hk : k < 4) :=
    getLsbD_writtenBits op first count buffer (g.val / 4) (i := 4 * (g.val % 4) + k) (by omega)
  simp only [GroupState.refreshedBy, Bool.and_eq_true, decide_eq_true_eq, and_assoc, and_groupMask_ne_zero]
  refine and_congr_right fun _ => and_congr_right fun _ => ⟨fun ⟨k, hk, hw⟩ => ?_, fun ⟨hf, hl, hop⟩ => ?_⟩
  · obtain ⟨⟨hf, hl⟩, hop⟩ := (bit k hk).mp hw
    exact ⟨hf, hl, hop.imp_right fun h => ⟨k, hk, h⟩⟩
  · rcases hop with write | ⟨k, hk, h⟩
    · exact ⟨0, by decide, (bit 0 (by decide)).mpr ⟨⟨hf, hl⟩, .inl write⟩⟩
    · exact ⟨k, hk, (bit k hk).mpr ⟨⟨hf, hl⟩, .inr h⟩⟩

/-! ### COMMIT in OUT -/

section
variable (s : State) (p : Port) (op : WriteOp) (first count : Nat)

/-- A commit in OUT refreshes its groups and leaves the others (R145 to R147). -/
theorem group_applyCommit_out (g : Group) :
    (s.applyCommit p op .out first count).group g =
      if (s.group g).refreshedBy p g (writtenBits op first count (s.port p).buffer (g.val / 4)) then
        (s.group g).refreshed
      else s.group g := by
  rw [State.applyCommit, if_pos rfl, State.report, group_mapPorts, State.outputCommit, group_driveLines, group_mapGroups]
  rfl

/-- After a commit in OUT the lines show what R141 says (R143). -/
theorem driven_applyCommit_out (n : Fin 32) :
    (s.applyCommit p op .out first count).driven.get n = (s.applyCommit p op .out first count).lineLevel n := by
  rw [State.applyCommit, if_pos rfl, State.report, driven_mapPorts, State.outputCommit, driven_driveLines,
    ← lineLevel_driveLines]
  rfl

end

/-- A commit that is carried out leaves the live bank (R9, R45). -/
theorem liveWord_applyCommit {s : State} (p : Port) (op : WriteOp) {r : Region} (first count i : Nat)
    (hr : r ≠ .prm s.image.live) : (s.applyCommit p op r first count).image.liveWord i = s.image.liveWord i := by
  rw [image_applyCommit, Image.liveWord, Image.live_bumpGen, Image.live_commitWords, Image.word_bumpGen,
    Image.word_commitWords_outside _ _ _ _ _ _ _ _ (.inl hr.symm)]
  rfl

/-- Settles O45: the outcome at the committing port touches no group and no line, so the rest is what the report of the
commit made of them. -/
theorem commitRefreshesGroups : Obligations.CommitRefreshesGroups := by
  intro p s op first count before after later hlow ho hb h1 hh
  let s1 : State := { s with claims := claimsLeft before after later }
  have hok : commitCheck s1.image s1.holds p .out first count = .ok := commitCheck_ok (by simp) h1 hh
  have field : s1.takeCommit p op .out first count =
      { s1.applyCommit p op .out first count with ports := (s1.takeCommit p op .out first count).ports } := by
    rw [State.takeCommit_ok hok]
    exact (onlyPort_commitDone ..).1
  refine ⟨_, exec_commit_oldest hlow ho hb, fun g => ?_, fun n => ?_⟩
  · have group : (s1.takeCommit p op .out first count).group g =
        if (s.group g).refreshedBy p g (writtenBits op first count (s.port p).buffer (g.val / 4)) then
          (s.group g).refreshed
        else s.group g := by
      rw [field]
      exact group_applyCommit_out s1 p op first count g
    refine ⟨fun refreshes => ?_, fun stays => ?_⟩
    · rw [group, if_pos (GroupState.refreshedBy_iff.mpr refreshes)]
      rfl
    · rw [group, if_neg (mt GroupState.refreshedBy_iff.mp stays)]
  · have live := liveWord_applyCommit (s := s1) p op first count (48 + n.val / 16) (r := .out) (by simp)
    rw [field]
    refine (driven_applyCommit_out s1 p op first count n).trans ?_
    rw [State.lineLevel, live]
    rfl

end Sys2Proof.Machine
end

section
/-! PROOFS. Every step keeps the output lines at the levels of R141 and each group's record as R142 says: what each change of
a group keeps, then each command, then what time does. -/

namespace Sys2Proof.Machine

/-! ### One group -/

/-- A group's record stands under the live bank's owner and refresh words: UNSUPERVISED just when these supervise nothing, and
its timer runs just in ARMED (R142, R144). -/
structure GroupState.Fits (x : GroupState) (owner refresh : Word) : Prop where
  ownerWord : x.owner = owner
  refreshWord : x.refresh = refresh
  mode : x.mode = .unsupervised ↔ supervised owner refresh = false
  timer : x.timer.isSome = true ↔ x.mode = .armed

section
variable {x : GroupState} {owner refresh : Word}

theorem GroupState.fits_iff :
    x.Fits owner refresh ↔
      x.owner = owner ∧ x.refresh = refresh ∧
        (x.mode = .unsupervised ↔ ¬(x.owner.toNat ≤ 3 ∧ 1 ≤ x.refresh.toNat ∧ x.refresh.toNat ≤ 255)) ∧
        (x.timer.isSome = true ↔ x.mode = .armed) := by
  rw [← supervised_iff, Bool.not_eq_true]
  constructor
  · rintro ⟨rfl, rfl, mode, timer⟩
    exact ⟨rfl, rfl, mode, timer⟩
  · rintro ⟨rfl, rfl, mode, timer⟩
    exact ⟨rfl, rfl, mode, timer⟩

/-- A refresh arms a supervised group (R146, R147). -/
theorem GroupState.Fits.refreshed (h : x.Fits owner refresh) (hm : x.mode ≠ .unsupervised) :
    x.refreshed.Fits owner refresh :=
  ⟨h.ownerWord, h.refreshWord, iff_of_false (by simp [GroupState.refreshed]) (mt h.mode.mpr hm),
    iff_of_true rfl rfl⟩

/-- A supervised group falls into FALLBACK (R148). -/
theorem GroupState.Fits.fallback (h : x.Fits owner refresh) (hm : x.mode ≠ .unsupervised) :
    { x with mode := .fallback, timer := none }.Fits owner refresh :=
  ⟨h.ownerWord, h.refreshWord, iff_of_false (by simp) (mt h.mode.mpr hm), iff_of_false (by simp) (by simp)⟩

/-- A millisecond starts and stops no timer. -/
theorem GroupState.Fits.countDown (h : x.Fits owner refresh) :
    { x with timer := countDown x.timer }.Fits owner refresh :=
  ⟨h.ownerWord, h.refreshWord, h.mode, by simpa [Machine.countDown] using h.timer⟩

/-- A SWAP puts a group under the new words, in each of the ways of R150. -/
theorem GroupState.Fits.reevaluate (h : x.Fits owner refresh) (owner' refresh' : Word) :
    (x.reevaluate owner' refresh').Fits owner' refresh' := by
  unfold GroupState.reevaluate
  split
  · next same =>
    obtain ⟨rfl, rfl⟩ := same
    rwa [h.ownerWord, h.refreshWord]
  · split
    · next watched =>
      split
      · next fallen => exact ⟨rfl, rfl, iff_of_false (by simp [fallen]) (by simp [watched]), h.timer⟩
      · exact ⟨rfl, rfl, iff_of_false (by simp) (by simp [watched]), iff_of_true rfl rfl⟩
    · next unwatched => exact ⟨rfl, rfl, iff_of_true rfl (by simpa using unwatched), iff_of_false (by simp) (by simp)⟩

end

/-! ### The part in step with its groups and lines -/

/-- Every output line shows what R141 says, and every group stands under the live bank's words. -/
structure State.outputsFit (s : State) : Prop where
  shown : ∀ n : Fin 32, s.driven.get n = s.lineLevel n
  fits : ∀ g : Group, (s.group g).Fits (s.image.liveWord (32 + g.val)) (s.image.liveWord (40 + g.val))

theorem outputsSound_iff (s : State) : OutputsSound s ↔ (s.resetLow = false → s.outputsFit) :=
  imp_congr_right fun _ =>
    ⟨fun ⟨shown, groups⟩ => ⟨shown, fun g => GroupState.fits_iff.mpr (groups g)⟩,
      fun h => ⟨h.shown, fun g => GroupState.fits_iff.mp (h.fits g)⟩⟩

/-! ### Changes beside the outputs -/

/-- What the outputs stand by: the groups, the driven levels and the image. -/
def State.outputSide (s : State) : Vector GroupState 8 × Vector Bool 32 × Image := (s.groups, s.driven, s.image)

/-- Two images with the same OUT words and the same live words. -/
structure Image.SameOutputs (im im' : Image) : Prop where
  out : ∀ i, im'.word .out i = im.word .out i
  live : ∀ i, im'.liveWord i = im.liveWord i

theorem Image.sameOutputs_refl (im : Image) : im.SameOutputs im := ⟨fun _ => rfl, fun _ => rfl⟩

theorem Image.sameOutputs_setInput (im : Image) (n : Line) (level : Bool) : im.SameOutputs (im.setInput n level) :=
  ⟨fun _ => Image.word_setInput _ _ _ _ (by simp), fun _ => by
    rw [Image.liveWord, live_setInput, Image.word_setInput _ _ _ _ (by simp)]
    rfl⟩

/-- A COPY writes the edit bank alone (R55). -/
theorem Image.sameOutputs_copyBank (im : Image) : im.SameOutputs im.copyBank :=
  ⟨fun _ => Image.word_copyBank_other _ _ (by simp), fun _ => by
    rw [Image.liveWord, Image.live_copyBank, Image.word_copyBank_other _ _ fun e => Bank.other_ne _ (Region.prm.inj e).symm]
    rfl⟩

section
variable {s t : State}

/-- A change of the image that leaves the OUT words and the live words. -/
theorem State.outputsFit_image (h : s.outputsFit) (hg : t.groups = s.groups) (hd : t.driven = s.driven)
    (hi : s.image.SameOutputs t.image) : t.outputsFit := by
  have group g : t.group g = s.group g := by simp only [State.group, hg]
  refine ⟨fun n => ?_, fun g => ?_⟩
  · rw [hd, State.lineLevel, group, hi.out, hi.live]
    exact h.shown n
  · rw [group, hi.live, hi.live]
    exact h.fits g

/-- A change beside the groups, the levels and the image. -/
theorem State.outputsFit_beside (h : s.outputsFit) (side : t.outputSide = s.outputSide) : t.outputsFit := by
  obtain ⟨groups, driven, image⟩ := by simpa only [State.outputSide, Prod.mk.injEq] using side
  exact State.outputsFit_image h groups driven (image ▸ Image.sameOutputs_refl _)

theorem State.outputsFit_whenReleased {f : State → State} (h : s.outputsFit) (hf : (f s).outputsFit) :
    (s.whenReleased f).outputsFit :=
  State.of_whenReleased (motive := State.outputsFit) h fun _ => hf

/-! ### Frames and the outcomes at a port -/

theorem State.outputsFit_arrive (p : Port) (kind : MasterKind) (payload : List Byte) (h : s.outputsFit) :
    (s.arrive p kind payload).outputsFit :=
  State.outputsFit_beside h (by rw [eq_of_beyondFrames (frameEffect_arrive s p kind payload).beyond]; rfl)

theorem State.outputsFit_frameRow (p : Port) (kind : MasterKind) (payload : List Byte) (h : s.outputsFit) :
    (s.frameRow p kind payload).outputsFit :=
  State.outputsFit_whenReleased h <| by
    split
    · exact h
    · exact State.outputsFit_arrive _ _ _ h

theorem State.outputsFit_goodCharacter (p : Port) (data : Byte) (h : s.outputsFit) :
    (s.goodCharacter p data).outputsFit := by
  have taken : (s.modPort p fun ps => ps.modRx fun rx =>
      rx.complete ((s.port p).rx.assembly.take data).1).outputsFit := State.outputsFit_beside h rfl
  unfold State.goodCharacter
  dsimp only
  split
  · exact taken
  · exact State.outputsFit_beside taken rfl
  · exact State.outputsFit_arrive _ _ _ taken

theorem State.outputsFit_commitDone (p : Port) (outcome : FinOutcome) (gen : Gen) (detail : Byte) (h : s.outputsFit) :
    (s.commitDone p outcome gen detail).outputsFit :=
  State.outputsFit_beside h (by rw [(onlyPort_commitDone ..).1]; rfl)

theorem State.outputsFit_bankDone (p : Port) (code : ReplyCode) (detail : List Byte) (h : s.outputsFit) :
    (s.bankDone p code detail).outputsFit :=
  State.outputsFit_beside h (by rw [(onlyPort_bankDone ..).1]; rfl)

/-- The claims of a line that moves are handed over beside the outputs. -/
theorem State.outputsFit_applyLine (n : Line) (r : LineFilter × List Claim) (h : s.outputsFit) :
    (s.applyLine n r).outputsFit :=
  State.outputsFit_beside h (by simp [State.outputSide, State.applyLine])

/-! ### Changes of the outputs -/

/-- An ARMED group is supervised, and the lines take their levels after its fall. -/
theorem State.outputsFit_enterFallback {g : Group} (hm : (s.group g).mode = .armed) (h : s.outputsFit) :
    (s.enterFallback g).outputsFit := by
  have fallen : (s.fallen g).outputsFit := by
    refine ⟨driven_fallen s g, fun k => ?_⟩
    by_cases hk : k = g
    · subst hk
      rw [group_fallen_same]
      exact (h.fits k).fallback (by simp [hm])
    · rw [group_fallen_other s g hk]
      exact h.fits k
  exact State.outputsFit_beside fallen (by rw [State.enterFallback_eq]; rfl)

/-- A commit that is carried out leaves the live bank (R9); one in OUT arms supervised groups only, and the lines take their
levels after it. -/
theorem State.outputsFit_applyCommit (p : Port) (op : WriteOp) {r : Region} (first count : Nat)
    (hr : r ≠ .prm s.image.live) (h : s.outputsFit) : (s.applyCommit p op r first count).outputsFit := by
  by_cases hout : r = .out
  · subst hout
    refine ⟨driven_applyCommit_out s p op first count, fun g => ?_⟩
    rw [liveWord_applyCommit p op first count _ hr, liveWord_applyCommit p op first count _ hr, group_applyCommit_out]
    split
    · next refreshes => exact (h.fits g).refreshed (GroupState.refreshedBy_iff.mp refreshes).1
    · exact h.fits g
  · obtain ⟨groups, driven⟩ := State.applyCommit_notOut s p op first count hout
    refine State.outputsFit_image h groups driven ⟨fun i => ?_, fun i => liveWord_applyCommit p op first count i hr⟩
    rw [image_applyCommit, Image.word_bumpGen,
      Image.word_commitWords_outside _ _ _ _ _ _ _ _ (.inl fun e => hout e.symm)]

theorem State.outputsFit_takeCommit (p : Port) (op : WriteOp) (r : Region) (first count : Nat) (h : s.outputsFit) :
    (s.takeCommit p op r first count).outputsFit := by
  by_cases hok : commitCheck s.image s.holds p r first count = .ok
  · rw [State.takeCommit_ok hok]
    exact State.outputsFit_commitDone _ _ _ _
      (State.outputsFit_applyCommit _ _ _ _ (region_of_commitCheck_ok hok) h)
  · obtain ⟨outcome, detail, refused⟩ := State.takeCommit_refused op hok
    rw [refused]
    exact State.outputsFit_commitDone _ _ _ _ h

/-- A SWAP puts every group under the words of the bank it makes live, and the lines take their levels after that (R150). -/
theorem State.outputsFit_performSwap (h : s.outputsFit) : s.performSwap.outputsFit := by
  have field : s.swapField.outputsFit := by
    refine ⟨fun n => ?_, fun g => ?_⟩
    · rw [State.swapField, State.outputSwap, driven_driveLines, lineLevel_driveLines]
    · rw [group_swapField, State.swapField_eq]
      exact (h.fits g).reevaluate _ _
  exact State.outputsFit_beside field rfl

/-! ### The claims taken -/

theorem State.outputsFit_commit (p : Port) (h : s.outputsFit) :
    ∃ t, exec (.commit p) s = .next t ∧ t.outputsFit := by
  refine ⟨_, rfl, State.outputsFit_whenReleased h ?_⟩
  split
  · exact State.outputsFit_takeCommit _ _ _ _ _ (State.outputsFit_beside h rfl)
  · exact h

theorem State.outputsFit_inputUpdate (n : Line) (h : s.outputsFit) :
    ∃ t, exec (.inputUpdate n) s = .next t ∧ t.outputsFit := by
  refine ⟨_, rfl, State.outputsFit_whenReleased h ?_⟩
  split
  · exact State.outputsFit_applyLine _ _ (State.outputsFit_image h rfl rfl (Image.sameOutputs_setInput ..))
  · exact h

theorem State.outputsFit_swapClaim (p : Port) (h : s.outputsFit) :
    ∃ t, exec (.swapClaim p) s = .next t ∧ t.outputsFit := by
  refine ⟨_, rfl, State.outputsFit_whenReleased h ?_⟩
  split
  · next c rest _ =>
    have taken : { s with claims := rest }.outputsFit := State.outputsFit_beside h rfl
    dsimp only
    split
    · exact State.outputsFit_bankDone _ _ _ taken
    · split
      · exact State.outputsFit_bankDone _ _ _ taken
      · exact State.outputsFit_bankDone _ _ _ (State.outputsFit_performSwap taken)
  · exact h

theorem State.outputsFit_copyClaim (p : Port) (h : s.outputsFit) :
    ∃ t, exec (.copyClaim p) s = .next t ∧ t.outputsFit := by
  refine ⟨_, rfl, State.outputsFit_whenReleased h ?_⟩
  split
  · dsimp only
    split
    · exact State.outputsFit_bankDone _ _ _ (State.outputsFit_beside h rfl)
    · exact State.outputsFit_bankDone _ _ _
        (State.outputsFit_image h rfl rfl (Image.sameOutputs_copyBank s.image))
  · exact h

/-! ### The commands -/

/-- The release sets groups, lines and image as at power-on (R6, R153). -/
theorem State.outputsFit_released (s : State) (rate : BitVec 3) (par : Bool) : (s.released rate par).outputsFit :=
  State.outputsFit_beside ((outputsSound_iff State.reset).mp outputsSound_reset rfl) rfl

/-- While RESET_N is high every command but its fall keeps the outputs. -/
theorem State.outputsFit_exec (c : Instr) (hlow : s.resetLow = false) (h : s.outputsFit) (ha : c ≠ .resetNAssert) :
    ∃ t, exec c s = .next t ∧ t.outputsFit := by
  have beside {t : State} (side : t.outputSide = s.outputSide) : t.outputsFit := State.outputsFit_beside h side
  have released {f : State → State} : (f s).outputsFit → (s.whenReleased f).outputsFit :=
    State.outputsFit_whenReleased h
  cases hframe : frameOf c with
  | some frame => exact ⟨_, exec_of_frameOf hframe s, State.outputsFit_frameRow _ _ _ h⟩
  | none =>
    cases c with
    | resetNAssert => exact absurd rfl ha
    | resetNRelease rate par => exact ⟨_, exec_resetNRelease s rate par, State.outputsFit_released s rate par⟩
    | characterReceived p data parityBit stopBit =>
      refine ⟨_, rfl, ?_⟩
      split
      · exact beside rfl
      · split
        · exact h
        · split
          · exact State.outputsFit_goodCharacter _ _ h
          · exact beside rfl
          · exact beside rfl
    | framingError p => refine ⟨_, rfl, ?_⟩; split <;> exact beside rfl
    | gapLimitExpiry p => exact ⟨_, rfl, released (beside rfl)⟩
    | breakDetected p => exact ⟨_, rfl, released (by split <;> exact beside rfl)⟩
    | breakEnd p =>
      refine ⟨_, rfl, ?_⟩
      split
      · exact beside rfl
      · split <;> exact beside rfl
    | frameSent p => exact ⟨_, rfl, released (by dsimp only; split <;> exact beside rfl)⟩
    | tSegExpiry p => exact ⟨_, rfl, released (beside rfl)⟩
    | tAckExpiry p => exact ⟨_, rfl, released (beside rfl)⟩
    | tNtcExpiry p => exact ⟨_, rfl, released (beside rfl)⟩
    | leaseExpiry id => exact ⟨_, rfl, released (by split <;> exact beside rfl)⟩
    | refreshTimerExpiry g =>
      refine ⟨_, rfl, released ?_⟩
      split
      · next due => exact State.outputsFit_enterFallback ((refreshDue_iff s g).mp due).1 h
      · exact h
    | inputTransition n level => exact ⟨_, exec_inputTransition hlow, State.outputsFit_applyLine _ _ h⟩
    | measurementExpiry n =>
      refine ⟨_, rfl, released ?_⟩
      split
      · exact State.outputsFit_applyLine _ _ h
      · exact h
    | commit p => exact State.outputsFit_commit p h
    | snapshot p => exact ⟨_, rfl, released (by split <;> exact beside rfl)⟩
    | inputUpdate n => exact State.outputsFit_inputUpdate n h
    | swapClaim p => exact State.outputsFit_swapClaim p h
    | copyClaim p => exact State.outputsFit_copyClaim p h
    | startBit p => refine ⟨_, rfl, ?_⟩; split <;> exact beside rfl
    | _ => simp [frameOf] at hframe

end

/-- Only its release ends the time while RESET_N is low. -/
theorem resetLow_of_exec_low {c : Instr} {s t : State} (hlow : s.resetLow = true) (ha : c ≠ .resetNAssert)
    (hr : ∀ rate par, c ≠ .resetNRelease rate par) (he : exec c s = .next t) : t.resetLow = true := by
  rcases exec_low c s hlow ha hr with h | ⟨_, _, h⟩ | ⟨_, _, h⟩
  all_goals
    obtain rfl := Host.Outcome.next.inj (he.symm.trans h)
    exact hlow

/-- While RESET_N is low nothing is asked of the outputs, and its release sets them anew. -/
theorem outputsSound_of_exec_low {c : Instr} {s t : State} (hlow : s.resetLow = true) (ha : c ≠ .resetNAssert)
    (he : exec c s = .next t) : OutputsSound t := by
  by_cases hr : ∃ rate par, c = .resetNRelease rate par
  · obtain ⟨rate, par, rfl⟩ := hr
    obtain rfl := Host.Outcome.next.inj he
    exact (outputsSound_iff _).mpr fun _ => State.outputsFit_released s rate par
  · have low := resetLow_of_exec_low hlow ha (fun rate par hc => hr ⟨rate, par, hc⟩) he
    exact fun high => by cases low.symm.trans high

theorem outputsSound_of_exec {c : Instr} {s t : State} (hs : OutputsSound s) (he : exec c s = .next t) :
    OutputsSound t := by
  by_cases ha : c = .resetNAssert
  · subst ha
    obtain rfl := Host.Outcome.next.inj he
    exact nofun
  · cases hlow : s.resetLow with
    | true => exact outputsSound_of_exec_low hlow ha he
    | false =>
      obtain ⟨t', he', kept⟩ := State.outputsFit_exec c hlow ((outputsSound_iff s).mp hs hlow) ha
      obtain rfl := Host.Outcome.next.inj (he.symm.trans he')
      exact (outputsSound_iff t).mpr fun _ => kept

/-- A millisecond counts the refresh timers, which no level shows. -/
theorem State.outputsFit_tick {s : State} (hlow : s.resetLow = false) (h : s.outputsFit) : s.tick.outputsFit := by
  have image : s.tick.image = s.image := by rw [State.tick_eq hlow]
  have driven : s.tick.driven = s.driven := by rw [State.tick_eq hlow]
  refine ⟨fun n => ?_, fun g => ?_⟩
  · rw [driven, State.lineLevel, group_tick hlow, image]
    exact h.shown n
  · rw [group_tick hlow, image]
    exact (h.fits g).countDown

theorem outputsSound_tick {s : State} (hs : OutputsSound s) : OutputsSound s.tick := by
  cases hlow : s.resetLow with
  | true =>
    rw [State.tick, State.whenReleased_low hlow]
    exact hs
  | false => exact (outputsSound_iff _).mpr fun _ => State.outputsFit_tick hlow ((outputsSound_iff s).mp hs hlow)

/-- Settles O60: a step is a command, the beginning of frames, or a millisecond, and each keeps the outputs. -/
theorem stepKeepsOutputsSound : Obligations.StepKeepsOutputsSound := by
  intro s t hs hstep
  unfold step at hstep
  split at hstep
  · next c rest _ => exact outputsSound_of_exec (s := { s with pending := rest }) hs hstep
  · split at hstep
    · cases hstep
      exact hs
    · split at hstep
      · exact outputsSound_of_exec hs hstep
      · cases hstep
        exact outputsSound_tick hs

end Sys2Proof.Machine
end

section
/-! PROOFS. A step on a queue that holds a command: exec of the command at its front. -/

namespace Sys2Proof.Machine

/-- The rule for a nonempty queue; `step_begins`, `step_due`, `step_tick` and `step_low` are those for an empty one. -/
theorem step_front {s : State} {c : Instr} {rest : List Instr} (hp : s.pending = c :: rest) :
    step s = exec c { s with pending := rest } := by
  rw [step, hp]

/-- Settles O1. -/
theorem stepRunsFrontCommand : Obligations.StepRunsFrontCommand := fun _ _ _ => step_front

end Sys2Proof.Machine
end
